-- ==== Sys2Proof/Word.lean ====
section
/-!
DEFINITION. The plain data types of the block: bytes, 32-bit words and buffers.
Everything that computes with them stands in Decode.lean or under Machine/.
-/

namespace Sys2Proof

/-- One byte, a `u8` (00_scope.md R8). -/
abbrev Byte := BitVec 8

/-- One 32-bit word: a command word or a word operand, a `u32` (30_encoding.md R81, R82). -/
abbrev Word := BitVec 32

/-- A finite byte sequence handed over whole (30_encoding.md R82, 20_memory.md R51). -/
abbrev Buffer := List Byte

end Sys2Proof
end

