-- ==== Sys2Proof/Syntax.lean ====
section
/-!
DEFINITION. The instructions of the block: one constructor per row of spec/opcode_table.json,
fourteen command forms and six elements of the ADPCM bit stream.
-/

namespace Sys2Proof

/-- One entry of a byte source: a byte, or a `Fault` (20_memory.md R50). -/
inductive Entry where
  /-- a byte of the source -/
  | byte (b : Byte)
  /-- an entry whose reading faults, every time it is touched (20_memory.md R60) -/
  | fault
deriving DecidableEq, Repr

/-- A byte source: a finite sequence of entries, immutable while bound (20_memory.md R50, R67). -/
abbrev Source := List Entry

/-- An operand that follows the command word (30_encoding.md R82). -/
inductive Operand where
  | source (src : Source)
  | buffer (buf : Buffer)
  | word (w : Word)
deriving DecidableEq, Repr

/-- The channel count of a session, ADPCM.INIT's field `S` (30_encoding.md R81, 10_state.md R24). -/
inductive ChannelCount where
  /-- `S = 0`, one channel -/
  | mono
  /-- `S = 1`, two channels -/
  | stereo
deriving DecidableEq, Repr

/-- A channel of the channel state file (10_state.md R27). -/
inductive Channel where
  /-- channel 0: left, or the only channel of a mono session -/
  | left
  /-- channel 1: right -/
  | right
deriving DecidableEq, Repr

/-- `bits_per_sample`, an integer in 2..5: the format of a session's codes
(10_state.md R25, 30_encoding.md R91). -/
inductive CodeSize where
  | b2
  | b3
  | b4
  | b5
deriving DecidableEq, Repr

/-- The instructions. Commands carry the fields of their word and their operands
(30_encoding.md R81, R82); stream elements carry the channel they are read for, which the decoder
knows from its state and not from the bits (30_encoding.md R92), and the fields of their layout. -/
inductive Instr where
  /-- CUR.BIND (40_cursor.md R121) -/
  | curBind (src : Source)
  /-- CUR.RDU (40_cursor.md R122); `n` is the 6-bit field, legal 1..32 (R127) -/
  | curRdu (n : BitVec 6)
  /-- CUR.RDS (40_cursor.md R123); `n` is the 6-bit field, legal 1..32 (R127) -/
  | curRds (n : BitVec 6)
  /-- ADPCM.INIT (41_adpcm.md R144) -/
  | adpcmInit (nch : ChannelCount) (src : Source) (rate : Word)
  /-- ADPCM.PULL (41_adpcm.md R145) -/
  | adpcmPull
  /-- IMG.ALPHA (42_image.md R191) -/
  | imgAlpha (jpeg alphaZ : Buffer)
  /-- IMG.LOSSLESS with VER = 1, FMT = 5 (42_image.md R198) -/
  | imgLosslessV1Rgb32 (ncol : Byte) (width height : Word) (dataZ : Buffer)
  /-- IMG.LOSSLESS with VER = 2, FMT = 5 (42_image.md R199) -/
  | imgLosslessV2Rgb32 (ncol : Byte) (width height : Word) (dataZ : Buffer)
  /-- IMG.LOSSLESS with VER = 1, FMT = 3 (42_image.md R202) -/
  | imgLosslessV1Cmap8 (ncol : Byte) (width height : Word) (dataZ : Buffer)
  /-- IMG.LOSSLESS with VER = 2, FMT = 3 (42_image.md R203) -/
  | imgLosslessV2Cmap8 (ncol : Byte) (width height : Word) (dataZ : Buffer)
  /-- IMG.LOSSLESS with FMT = 4, any VER (42_image.md R205) -/
  | imgLosslessRgb15 (ncol ver : Byte) (width height : Word) (dataZ : Buffer)
  /-- IMG.LOSSLESS with FMT = 5, VER not 1 or 2 (42_image.md R206) -/
  | imgLosslessOtherRgb32 (ncol ver : Byte) (width height : Word) (dataZ : Buffer)
  /-- IMG.LOSSLESS with FMT = 3, VER not 1 or 2 (42_image.md R206) -/
  | imgLosslessOtherCmap8 (ncol ver : Byte) (width height : Word) (dataZ : Buffer)
  /-- IMG.LOSSLESS with FMT not 3, 4 or 5 (42_image.md R195) -/
  | imgLosslessBadfmt (ncol ver fmt : Byte) (width height : Word) (dataZ : Buffer)
  /-- SIZE_CODE, stream layout `cc` (30_encoding.md R88, 41_adpcm.md R143) -/
  | sizeCode (cc : BitVec 2)
  /-- HEADER, 16 bits `smp` then 6 bits `k` (30_encoding.md R89, 41_adpcm.md R146) -/
  | header (c : Channel) (smp : BitVec 16) (k : BitVec 6)
  /-- CODE2, layout `s m` (30_encoding.md R91, 41_adpcm.md R149) -/
  | code2 (c : Channel) (sign : Bool) (m : BitVec 1)
  /-- CODE3, layout `s mm` (30_encoding.md R91, 41_adpcm.md R150) -/
  | code3 (c : Channel) (sign : Bool) (m : BitVec 2)
  /-- CODE4, layout `s mmm` (30_encoding.md R91, 41_adpcm.md R151) -/
  | code4 (c : Channel) (sign : Bool) (m : BitVec 3)
  /-- CODE5, layout `s mmmm` (30_encoding.md R91, 41_adpcm.md R152) -/
  | code5 (c : Channel) (sign : Bool) (m : BitVec 4)
deriving DecidableEq, Repr

end Sys2Proof
end

