-- ==== Sys2Proof/Config.lean ====
section
/-!
DEFINITION. What an implementation fixes: the parameters of the model (00_scope.md R6,
70_reset_and_hazards.md R262) as plain data, and the constants with no body that stand for what the
spec leaves OPEN or says no rule reads.
-/

namespace Sys2Proof

/-- The parameter `HEADER_EMIT` (41_adpcm.md R147). -/
inductive HeaderEmit where
  /-- `DECODE_SAME_PULL`: the pull that reads the headers also decodes one code per channel -/
  | decodeSamePull
  /-- `EMIT_INITIAL`: the pull that reads the headers emits the header samples -/
  | emitInitial
deriving DecidableEq, Repr

/-- The parameter `INDEX_TABLE`, one variant per `bits_per_sample` (41_adpcm.md R141). -/
structure IndexTable where
  v2 : List Int
  v3 : List Int
  v4 : List Int
  v5 : List Int
deriving DecidableEq, Repr

/-- What the baseline JPEG decoder returns on success (60_exceptions.md R248, 30_encoding.md R98). -/
structure JpegImage where
  width : Word
  height : Word
  rgb : Buffer
deriving DecidableEq, Repr

/-- The parameters of the model, fixed before the first command (70_reset_and_hazards.md R262).
`inflateAnswers` and `jpegAnswers` list the services' answers that are known as data, `none`
standing for Fail; any other answer is `Config.inflate` or `Config.jpegDecode`
(DESIGN CHOICE, log entry 4). -/
structure Params where
  stepTable : List Nat
  indexTable : IndexTable
  headerEmit : HeaderEmit
  maxOutputBytes : Nat
  inflateAnswers : List (Buffer × Option Buffer)
  jpegAnswers : List (Buffer × Option JpegImage)
deriving DecidableEq, Repr

namespace Config

/-- `MAX_OUTPUT_BYTES`, OPEN (42_image.md R208, 92_eei_decisions.md D22). Log entry 3. -/
opaque maxOutputBytes : Nat

/-- `INFLATE`, OPEN: a total deterministic function, `none` for Fail (60_exceptions.md R248).
Log entry 4. -/
opaque inflate : Buffer → Option Buffer

/-- `JPEG_DECODE`, OPEN: a total deterministic function, `none` for Fail (60_exceptions.md R248).
Log entry 4. -/
opaque jpegDecode : Buffer → Option JpegImage

/-- Free value: what a `sample` field with no value would read as. "No rule reads them"
(10_state.md R27, 93_implementation_defined.md I10). Log entry 6. -/
opaque absentSample : Channel → BitVec 16

/-- Free value: what a `step_index` field with no value would read as (10_state.md R27). Log entry 6. -/
opaque absentStepIndex : Channel → Fin 89

/-- Free value: a lookup past the end of `STEP_TABLE`, which no rule makes (41_adpcm.md R142).
Log entry 7. -/
opaque offStepTable : Nat → Nat

/-- Free value: a lookup past the end of an `INDEX_TABLE` variant, which no rule makes
(41_adpcm.md R142). Log entry 7. -/
opaque offIndexTable : CodeSize → Nat → Int

/-- Free value: a byte past the end of a buffer, which no rule reads (42_image.md R207).
Log entry 7. -/
opaque offBuffer : Nat → Byte

/-- Free value: a bit outside the bound source, which no rule reads (40_cursor.md R120).
Log entry 7. -/
opaque offSource : Nat → Bool

end Config

end Sys2Proof
end

