-- ==== Sys2Proof/Machine/Tables.lean ====
section
/-!
DEFINITION. The default values of the parameters (41_adpcm.md R140, R141, R147), which
State.reset starts from.
-/

namespace Sys2Proof.Machine

/-- The default `STEP_TABLE`, index 0 to 88 (41_adpcm.md R140). PRESUMED by the spec, log entry 2. -/
def defaultStepTable : List Nat :=
  [7, 8, 9, 10, 11, 12, 13, 14, 16, 17] ++
  [19, 21, 23, 25, 28, 31, 34, 37, 41, 45] ++
  [50, 55, 60, 66, 73, 80, 88, 97, 107, 118] ++
  [130, 143, 157, 173, 190, 209, 230, 253, 279, 307] ++
  [337, 371, 408, 449, 494, 544, 598, 658, 724, 796] ++
  [876, 963, 1060, 1166, 1282, 1411, 1552, 1707, 1878, 2066] ++
  [2272, 2499, 2749, 3024, 3327, 3660, 4026, 4428, 4871, 5358] ++
  [5894, 6484, 7132, 7845, 8630, 9493, 10442, 11487, 12635, 13899] ++
  [15289, 16818, 18500, 20350, 22385, 24623, 27086, 29794, 32767]

/-- The default `INDEX_TABLE` (41_adpcm.md R141). PRESUMED by the spec, log entry 2. -/
def defaultIndexTable : IndexTable where
  v2 := [-1, 2]
  v3 := [-1, -1, 2, 4]
  v4 := [-1, -1, -1, -1, 2, 4, 6, 8]
  v5 := [-1, -1, -1, -1, -1, -1, -1, -1, 1, 2, 4, 6, 8, 10, 13, 16]

/-- The parameters a machine starts with: the defaults the spec gives, and for the OPEN ones the
constants of Config with no answer of a service known as data. Log entries 2, 3, 4. -/
def defaultParams : Params where
  stepTable := defaultStepTable
  indexTable := defaultIndexTable
  headerEmit := .decodeSamePull
  maxOutputBytes := Config.maxOutputBytes
  inflateAnswers := []
  jpegAnswers := []

end Sys2Proof.Machine
end

