-- ==== Sys2Proof/Machine/State.lean ====
section
/-!
DEFINITION. The machine's state as plain data (10_state.md R21 to R27, R36), the responses
(30_encoding.md R85, R86), the reasons a step can stop, and the state after reset.
-/

namespace Sys2Proof.Machine

/-- Why the machine stops with a fault. The block itself has no traps: every failure the spec
describes is a response and a next state (60_exceptions.md R230). -/
inductive Fault where
  /-- Raised by ADPCM.PULL in mode ACTIVE with no source bound, where the precondition of the read
  primitive, "a bound source" (40_cursor.md R120), fails. Safe: no state that a run from reset
  reaches has an ACTIVE session without a source (log entry 8). -/
  | noBoundSource
deriving DecidableEq, Repr

/-- Why the model gives no meaning. -/
inductive Refusal where
  /-- Raised by an arm of exec for an instruction that has no meaning yet. Safe. No arm raises it. -/
  | notModelled (mnemonic : String)
  /-- Raised by the image commands when `4 * w * h` exceeds `MAX_OUTPUT_BYTES`: "the model refuses
  the command: it gives the command no meaning" (42_image.md R208). Safe. -/
  | outputTooLarge
deriving DecidableEq, Repr

/-- The cursor (10_state.md R21). -/
structure Cursor where
  /-- the byte source the cursor owns, if one is bound -/
  src : Option Source
  /-- index of the byte holding the next bit -/
  byteOff : Nat
  /-- index of the next bit inside that byte, 0..7, in stream order -/
  bitOff : Nat
deriving DecidableEq, Repr

/-- The life of an ADPCM session (10_state.md R23). -/
inductive Mode where
  /-- `UNINIT`: no session exists -/
  | uninit
  /-- `ACTIVE`: a session exists and the next PULL decodes -/
  | active
  /-- `ENDED`: the session's sequence has ended because bits ran out -/
  | ended
  /-- `FAULTED`: the session hit a source fault, and the fault has been reported -/
  | faulted
deriving DecidableEq, Repr

/-- The fields of one channel. `none` is the spec's own "no value": "a model represents them as
absent, not as zero" (10_state.md R27). Log entry 6. -/
structure ChannelState where
  /-- -32768..32767 -/
  sample : Option Int
  /-- 0..88 -/
  stepIndex : Option Nat
deriving DecidableEq, Repr

/-- The ADPCM state (10_state.md R23 to R27). -/
structure Adpcm where
  mode : Mode
  nch : ChannelCount
  rate : Word
  bps : CodeSize
  /-- 0..4094 -/
  blockCounter : Nat
  /-- `ch[0]` -/
  left : ChannelState
  /-- `ch[1]` -/
  right : ChannelState
deriving DecidableEq, Repr

/-- The status codes other than OK (30_encoding.md R86, 60_exceptions.md R231). -/
inductive Failure where
  | endOfStream
  | malformedHeader
  | inflateError
  | decodeError
  | sizeMismatch
  | unimplemented
  | sourceFault
  | illegalCommand
  | notInitialized
deriving DecidableEq, Repr

/-- The payload of an OK response (30_encoding.md R85). -/
inductive Payload where
  /-- CUR.BIND -/
  | empty
  /-- CUR.RDU, CUR.RDS: `VALUE`, a u32 -/
  | value (v : Word)
  /-- ADPCM.INIT: `BPS`, a u8 -/
  | bps (b : Byte)
  /-- ADPCM.PULL of a mono session: `L`, an i16 -/
  | mono (l : BitVec 16)
  /-- ADPCM.PULL of a stereo session: `L` and `R`, each an i16 -/
  | stereo (l r : BitVec 16)
  /-- IMG.ALPHA, IMG.LOSSLESS: `WIDTH`, `HEIGHT` and the output buffer `Out` -/
  | image (width height : Word) (out : Buffer)
deriving DecidableEq, Repr

/-- A response: "the payload exists only when the status is OK" (30_encoding.md R85). -/
inductive Response where
  | ok (payload : Payload)
  | failed (why : Failure)
deriving DecidableEq, Repr

/-- What the host does next: issue a command, or reset the block between commands
(00_scope.md R3, 70_reset_and_hazards.md R260). -/
inductive HostEvent where
  | command (word : Word) (operands : List Operand)
  | reset
deriving DecidableEq, Repr

/-- The host agent (10_state.md R20), the MODEL's own fields: what it has yet to issue, and the
responses it has received, oldest first (70_reset_and_hazards.md R272). Log entry 1. -/
structure HostSide where
  program : List HostEvent
  responses : List Response
deriving DecidableEq, Repr

/-- The state of the machine. -/
structure State where
  cursor : Cursor
  adpcm : Adpcm
  /-- fixed before the first command (70_reset_and_hazards.md R262); log entry 2 -/
  params : Params
  host : HostSide
deriving DecidableEq, Repr

/-- A channel whose fields hold no value (10_state.md R27). -/
def ChannelState.noValue : ChannelState := { sample := none, stepIndex := none }

/-- The cursor after reset (10_state.md R36). -/
def Cursor.reset : Cursor := { src := none, byteOff := 0, bitOff := 0 }

/-- The ADPCM state after reset (10_state.md R36). `nch`, `rate`, `bps` and `blockCounter` have "no
value (unspecified)" there: the values below are a DESIGN CHOICE, log entry 5. -/
def Adpcm.reset : Adpcm where
  mode := .uninit
  nch := .mono
  rate := 0
  bps := .b2
  blockCounter := 0
  left := .noValue
  right := .noValue

/-- The machine right after reset (10_state.md R36): nothing bound, no session, the default
parameters, and a host that has issued nothing. -/
def State.reset : State where
  cursor := .reset
  adpcm := .reset
  params := defaultParams
  host := { program := [], responses := [] }

end Sys2Proof.Machine
end

