-- ==== Sys2Proof/Machine/Flags.lean ====
section
/-!
DEFINITION. The block has no flags: "each response carries a status code and the host branches on
it" (10_state.md R31). This file gives the status codes their numbers.
-/

namespace Sys2Proof.Machine

/-- The number of a status code other than OK (30_encoding.md R86). -/
def Failure.code : Failure → Byte
  | .endOfStream => 1
  | .malformedHeader => 2
  | .inflateError => 3
  | .decodeError => 4
  | .sizeMismatch => 5
  | .unimplemented => 6
  | .sourceFault => 7
  | .illegalCommand => 8
  | .notInitialized => 9

/-- The status code of a response, a u8 (30_encoding.md R85, R86). -/
def Response.status : Response → Byte
  | .ok _ => 0
  | .failed why => why.code

end Sys2Proof.Machine
end

