-- ==== Sys2Proof/WellFormed.lean ====
section
/-!
DEFINITION. Which terms of `Instr` are the instruction of some encoding. The field types enforce
every width; what is left are the fields of IMG.LOSSLESS that select the row (42_image.md R197).
-/

namespace Sys2Proof

/-- `VER` is one of the versions the transform table defines (42_image.md R197). -/
def versionDefined (ver : Byte) : Bool := ver == 1 || ver == 2

/-- `FMT` is ColorMap8, Rgb15 or Rgb32 (42_image.md R195). -/
def formatKnown (fmt : Byte) : Bool := fmt == 3 || fmt == 4 || fmt == 5

/-- The instruction is one that a command word or a stream element encodes: the two rows for other
versions hold no defined version, and the row for unknown formats holds no known format
(42_image.md R195, R197, R206). A read width outside 1..32 is well-formed: its word is a word of
CUR.RDU or CUR.RDS, whose meaning answers IllegalCommand (40_cursor.md R127). -/
def WellFormed : Instr → Bool
  | .curBind _ => true
  | .curRdu _ => true
  | .curRds _ => true
  | .adpcmInit _ _ _ => true
  | .adpcmPull => true
  | .imgAlpha _ _ => true
  | .imgLosslessV1Rgb32 _ _ _ _ => true
  | .imgLosslessV2Rgb32 _ _ _ _ => true
  | .imgLosslessV1Cmap8 _ _ _ _ => true
  | .imgLosslessV2Cmap8 _ _ _ _ => true
  | .imgLosslessRgb15 _ _ _ _ _ => true
  | .imgLosslessOtherRgb32 _ ver _ _ _ => !versionDefined ver
  | .imgLosslessOtherCmap8 _ ver _ _ _ => !versionDefined ver
  | .imgLosslessBadfmt _ _ fmt _ _ _ => !formatKnown fmt
  | .sizeCode _ => true
  | .header _ _ _ => true
  | .code2 _ _ _ => true
  | .code3 _ _ _ => true
  | .code4 _ _ _ => true
  | .code5 _ _ _ => true

end Sys2Proof
end

