-- ==== Sys2Proof/Decode.lean ====
section
/-!
DEFINITION. Decoding and encoding, both written from the encoding tables of the spec: command words
with their operand lists (30_encoding.md R81 to R84) and elements of the ADPCM bit stream (R88 to
R91). Decoding is total and rejects by name.
-/

namespace Sys2Proof

/-- `bits_per_sample` as a number (10_state.md R25). -/
def CodeSize.bits : CodeSize → Nat
  | .b2 => 2
  | .b3 => 3
  | .b4 => 4
  | .b5 => 5

/-- The four formats a SIZE_CODE selects: `bits_per_sample = cc + 2` (30_encoding.md R88). -/
def CodeSize.ofSizeCode (cc : BitVec 2) : CodeSize :=
  match cc.toNat with
  | 0 => .b2
  | 1 => .b3
  | 2 => .b4
  | _ => .b5

/-- `sign_mask = 1 << (b - 1)` (30_encoding.md R90, R91). -/
def CodeSize.signMask (size : CodeSize) : Nat := 1 <<< (size.bits - 1)

/-- The sign of a code: `(data & sign_mask) != 0` (30_encoding.md R90, 41_adpcm.md R153). -/
def codeSign (size : CodeSize) (data : Nat) : Bool := data &&& size.signMask != 0

/-- The magnitude of a code: `data & ~sign_mask` (30_encoding.md R90). -/
def codeMagnitude (size : CodeSize) (data : Nat) : Nat := data ^^^ (data &&& size.signMask)

/-- A code's bits from its sign and magnitude, the sign bit first in stream order
(30_encoding.md R90, R91). -/
def codeData (size : CodeSize) (sign : Bool) (m : Nat) : Nat :=
  (if sign then size.signMask else 0) + m

/-- The stream element that comes next, and the channel it is for. The stream carries no type tag:
"the decoder knows the next element from its state" (30_encoding.md R92). -/
inductive Due where
  | sizeCode
  | header (c : Channel)
  | code (size : CodeSize) (c : Channel)
deriving DecidableEq, Repr

/-- The width of an element in bits (30_encoding.md R88 to R91). -/
def Due.width : Due → Nat
  | .sizeCode => 2
  | .header _ => 22
  | .code size _ => size.bits

/-- What is decoded: a command word with the operands that follow it, or the bits of the stream
element that is due, as one unsigned number whose most significant bit is the first bit read
(20_memory.md R53). -/
inductive Encoded where
  | command (word : Word) (operands : List Operand)
  | element (due : Due) (bits : Nat)
deriving DecidableEq, Repr

/-- Why a decoding is rejected. The first three are the causes of IllegalCommand that the word and
the operand list show (30_encoding.md R84); the stream has no illegal encodings (R94), so the last
one only says that a number has more bits than the element. -/
inductive DecodeError where
  /-- `OP` is not in the opcode map (30_encoding.md R83, R84) -/
  | unassignedOpcode
  /-- a reserved bit of the word is 1 (30_encoding.md R81, R84) -/
  | reservedBit
  /-- the operand list does not match the opcode (30_encoding.md R82, R84) -/
  | operandMismatch
  /-- the number does not fit in the width of the element that is due -/
  | notThisWide
deriving DecidableEq, Repr

/-- `w[hi:lo]`, the field of `w` from bit `hi` down to bit `lo`, as an unsigned number
(00_scope.md R7). -/
def wordField (w : Word) (hi lo : Nat) : Nat := w.toNat / 2 ^ lo % 2 ^ (hi + 1 - lo)

/-- IMG.LOSSLESS: the pair (VER, FMT) selects the row, the most specific row winning
(42_image.md R197). -/
def selectLossless (ncol ver fmt : Byte) (width height : Word) (dataZ : Buffer) : Instr :=
  if fmt = 5 then
    if ver = 1 then .imgLosslessV1Rgb32 ncol width height dataZ
    else if ver = 2 then .imgLosslessV2Rgb32 ncol width height dataZ
    else .imgLosslessOtherRgb32 ncol ver width height dataZ
  else if fmt = 3 then
    if ver = 1 then .imgLosslessV1Cmap8 ncol width height dataZ
    else if ver = 2 then .imgLosslessV2Cmap8 ncol width height dataZ
    else .imgLosslessOtherCmap8 ncol ver width height dataZ
  else if fmt = 4 then .imgLosslessRgb15 ncol ver width height dataZ
  else .imgLosslessBadfmt ncol ver fmt width height dataZ

/-- Decode a command word and its operand list (30_encoding.md R81 to R84). The width legality of
CUR.RDU and CUR.RDS is judged by their meanings, which answer IllegalCommand (40_cursor.md R127;
DESIGN CHOICE, log entry 9). -/
def decodeCommand (w : Word) (operands : List Operand) : Except DecodeError Instr :=
  match wordField w 31 24 with
  | 0x01 =>
    if wordField w 23 0 ≠ 0 then .error .reservedBit else
    match operands with
    | [.source src] => .ok (.curBind src)
    | _ => .error .operandMismatch
  | 0x02 =>
    if wordField w 23 6 ≠ 0 then .error .reservedBit else
    match operands with
    | [] => .ok (.curRdu (BitVec.ofNat 6 (wordField w 5 0)))
    | _ => .error .operandMismatch
  | 0x03 =>
    if wordField w 23 6 ≠ 0 then .error .reservedBit else
    match operands with
    | [] => .ok (.curRds (BitVec.ofNat 6 (wordField w 5 0)))
    | _ => .error .operandMismatch
  | 0x10 =>
    if wordField w 23 1 ≠ 0 then .error .reservedBit else
    match operands with
    | [.source src, .word rate] =>
      .ok (.adpcmInit (if wordField w 0 0 = 1 then .stereo else .mono) src rate)
    | _ => .error .operandMismatch
  | 0x11 =>
    if wordField w 23 0 ≠ 0 then .error .reservedBit else
    match operands with
    | [] => .ok .adpcmPull
    | _ => .error .operandMismatch
  | 0x20 =>
    if wordField w 23 0 ≠ 0 then .error .reservedBit else
    match operands with
    | [.buffer jpeg, .buffer alphaZ] => .ok (.imgAlpha jpeg alphaZ)
    | _ => .error .operandMismatch
  | 0x21 =>
    match operands with
    | [.word width, .word height, .buffer dataZ] =>
      .ok (selectLossless (BitVec.ofNat 8 (wordField w 23 16)) (BitVec.ofNat 8 (wordField w 15 8))
        (BitVec.ofNat 8 (wordField w 7 0)) width height dataZ)
    | _ => .error .operandMismatch
  | _ => .error .unassignedOpcode

/-- Decode the bits of the stream element that is due (30_encoding.md R88 to R91). Every pattern of
the element's width is legal (R94). -/
def decodeElement (due : Due) (v : Nat) : Except DecodeError Instr :=
  if v < 2 ^ due.width then
    match due with
    | .sizeCode => .ok (.sizeCode (BitVec.ofNat 2 v))
    | .header c => .ok (.header c (BitVec.ofNat 16 (v / 64)) (BitVec.ofNat 6 (v % 64)))
    | .code .b2 c => .ok (.code2 c (codeSign .b2 v) (BitVec.ofNat 1 (codeMagnitude .b2 v)))
    | .code .b3 c => .ok (.code3 c (codeSign .b3 v) (BitVec.ofNat 2 (codeMagnitude .b3 v)))
    | .code .b4 c => .ok (.code4 c (codeSign .b4 v) (BitVec.ofNat 3 (codeMagnitude .b4 v)))
    | .code .b5 c => .ok (.code5 c (codeSign .b5 v) (BitVec.ofNat 4 (codeMagnitude .b5 v)))
  else .error .notThisWide

/-- Decode what stands on the command port or at the cursor. -/
def decode : Encoded → Except DecodeError Instr
  | .command w operands => decodeCommand w operands
  | .element due v => decodeElement due v

/-- An IMG.LOSSLESS command: word `0x21000000 + N*0x10000 + V*0x100 + F`, operands WIDTH,
HEIGHT, DATA_Z (30_encoding.md R82, R83, R99). -/
def encodeLossless (ncol ver fmt : Byte) (width height : Word) (dataZ : Buffer) : Encoded :=
  .command (BitVec.ofNat 32
      (0x21000000 + ncol.toNat * 0x10000 + ver.toNat * 0x100 + fmt.toNat))
    [.word width, .word height, .buffer dataZ]

/-- The encoding of an instruction: the word pattern of the opcode map with its fields filled in and
the operands in order (30_encoding.md R81 to R83), or the element's layout (R88 to R91). -/
def encode : Instr → Encoded
  | .curBind src => .command 0x01000000#32 [.source src]
  | .curRdu n => .command (BitVec.ofNat 32 (0x02000000 + n.toNat)) []
  | .curRds n => .command (BitVec.ofNat 32 (0x03000000 + n.toNat)) []
  | .adpcmInit nch src rate =>
    .command (match nch with
      | .mono => 0x10000000#32
      | .stereo => 0x10000001#32) [.source src, .word rate]
  | .adpcmPull => .command 0x11000000#32 []
  | .imgAlpha jpeg alphaZ => .command 0x20000000#32 [.buffer jpeg, .buffer alphaZ]
  | .imgLosslessV1Rgb32 ncol width height dataZ => encodeLossless ncol 1 5 width height dataZ
  | .imgLosslessV2Rgb32 ncol width height dataZ => encodeLossless ncol 2 5 width height dataZ
  | .imgLosslessV1Cmap8 ncol width height dataZ => encodeLossless ncol 1 3 width height dataZ
  | .imgLosslessV2Cmap8 ncol width height dataZ => encodeLossless ncol 2 3 width height dataZ
  | .imgLosslessRgb15 ncol ver width height dataZ => encodeLossless ncol ver 4 width height dataZ
  | .imgLosslessOtherRgb32 ncol ver width height dataZ =>
    encodeLossless ncol ver 5 width height dataZ
  | .imgLosslessOtherCmap8 ncol ver width height dataZ =>
    encodeLossless ncol ver 3 width height dataZ
  | .imgLosslessBadfmt ncol ver fmt width height dataZ =>
    encodeLossless ncol ver fmt width height dataZ
  | .sizeCode cc => .element .sizeCode cc.toNat
  | .header c smp k => .element (.header c) (smp.toNat * 64 + k.toNat)
  | .code2 c sign m => .element (.code .b2 c) (codeData .b2 sign m.toNat)
  | .code3 c sign m => .element (.code .b3 c) (codeData .b3 sign m.toNat)
  | .code4 c sign m => .element (.code .b4 c) (codeData .b4 sign m.toNat)
  | .code5 c sign m => .element (.code .b5 c) (codeData .b5 sign m.toNat)

/-- The operands that stand beside a table word of which only the word is given: the operand list
of its opcode with every operand empty or zero (30_encoding.md R82; DESIGN CHOICE, log entry 10). -/
def zeroOperands (w : Word) : List Operand :=
  match wordField w 31 24 with
  | 0x01 => [.source []]
  | 0x10 => [.source [], .word 0]
  | 0x20 => [.buffer [], .buffer []]
  | 0x21 => [.word 0, .word 0, .buffer []]
  | _ => []

/-- What a word of the opcode table stands for, by its number of bits: 32 bits are a command word,
the widths of the stream rows are elements (for the left channel; 24 and 8 are 22 and 2 in whole
bytes). A 2-bit pattern is read as SIZE_CODE, the first element of every stream, and not as CODE2,
which has the same width (30_encoding.md R92; DESIGN CHOICE, log entry 10). -/
def tableEncoded (nbits w : Nat) : Option Encoded :=
  match nbits with
  | 32 => some (.command (BitVec.ofNat 32 w) (zeroOperands (BitVec.ofNat 32 w)))
  | 2 => some (.element .sizeCode w)
  | 8 => some (.element .sizeCode w)
  | 3 => some (.element (.code .b3 .left) w)
  | 4 => some (.element (.code .b4 .left) w)
  | 5 => some (.element (.code .b5 .left) w)
  | 22 => some (.element (.header .left) w)
  | 24 => some (.element (.header .left) w)
  | _ => none

/-- The instruction the decoder reads from a word of the opcode table. -/
def decodeTableWord (nbits w : Nat) : Option Instr :=
  match tableEncoded nbits w with
  | some e =>
    match decode e with
    | .ok i => some i
    | .error _ => none
  | none => none

end Sys2Proof
end

