-- ==== Sys2Proof/Machine/Operands.lean ====
section
/-!
DEFINITION. The forms in which a value is taken: the two interpretations of a field, the narrowing
to 16 bits, the clamp, and the channels and table entries an element names.
-/

namespace Sys2Proof.Machine

/-- `sext_N(v)` (00_scope.md R9). -/
def sext (n v : Nat) : Int := if v.testBit (n - 1) then (v : Int) - 2 ^ n else v

/-- `narrow16(v)` (00_scope.md R8). -/
def narrow16 (v : Int) : Int := (v + 32768) % 65536 - 32768

/-- `clamp(v, lo, hi)` (00_scope.md R8). -/
def clampTo (v lo hi : Int) : Int := if v < lo then lo else if v > hi then hi else v

/-- A value of i16 range as the 16-bit word of a response (30_encoding.md R85). -/
def toI16 (v : Int) : BitVec 16 := BitVec.ofInt 16 v

/-- CUR.RDU and CUR.RDS accept widths 1..32 (40_cursor.md R127). -/
def widthLegal (n : BitVec 6) : Bool := decide (1 ≤ n.toNat) && decide (n.toNat ≤ 32)

/-- The channels of a session, in the order they are processed: "left, then right if stereo"
(41_adpcm.md R145). -/
def channelsOf : ChannelCount → List Channel
  | .mono => [.left]
  | .stereo => [.left, .right]

/-- `STEP_TABLE[k]` (41_adpcm.md R140, R142). Past the table: a free value, log entry 7. -/
def stepEntry (p : Params) (k : Nat) : Nat := p.stepTable.getD k (Config.offStepTable k)

/-- `INDEX_TABLE[b - 2]` (41_adpcm.md R141). -/
def indexVariant (t : IndexTable) : CodeSize → List Int
  | .b2 => t.v2
  | .b3 => t.v3
  | .b4 => t.v4
  | .b5 => t.v5

/-- `INDEX_TABLE[b - 2][magnitude]` (41_adpcm.md R141, R142). Past the table: a free value,
log entry 7. -/
def indexEntry (p : Params) (size : CodeSize) (m : Nat) : Int :=
  (indexVariant p.indexTable size).getD m (Config.offIndexTable size m)

/-- A channel's `sample`, or a free value where it has no value (10_state.md R27, log entry 6). -/
def sampleOr (c : Channel) (ch : ChannelState) : Int :=
  match ch.sample with
  | some v => v
  | none => (Config.absentSample c).toInt

/-- A channel's `step_index`, or a free value where it has no value (10_state.md R27, log entry 6). -/
def stepIndexOr (c : Channel) (ch : ChannelState) : Nat :=
  match ch.stepIndex with
  | some k => k
  | none => (Config.absentStepIndex c).val

/-- Byte `j` of a buffer operand, `B[j]` (00_scope.md R10). Past its end: a free value, log
entry 7. -/
def bufferByte (d : Buffer) (j : Nat) : Byte := d.getD j (Config.offBuffer j)

end Sys2Proof.Machine
end

