-- ==== Sys2Proof/Machine/Ops.lean ====
section
/-!
DEFINITION. The named operations over the state: responses and failures, the cursor and its one read
primitive, the fields of the ADPCM session, the external services, and what the host's events do.
-/

namespace Sys2Proof.Machine

/-! ### Responses -/

/-- The host receives a response (30_encoding.md R85). -/
def State.respond (s : State) (r : Response) : State :=
  { s with host := { s.host with responses := s.host.responses ++ [r] } }

/-- `respond(OK, payload)` (00_scope.md R10). -/
def State.answer (s : State) (payload : Payload) : State := s.respond (.ok payload)

/-- `raise <Status>`: how the block takes every failure. "Every failure is reported in the response
of the command that met it. No handler runs, no state is saved, and control goes nowhere"
(60_exceptions.md R230); the state changes that a rule lists for the case are made before. -/
def State.raise (s : State) (why : Failure) : State := s.respond (.failed why)

/-! ### The cursor -/

/-- `pos = 8 * byte_off + bit_off` (10_state.md R21). -/
def Cursor.pos (c : Cursor) : Nat := 8 * c.byteOff + c.bitOff

/-- The cursor moves to bit position `pos` (10_state.md R21). -/
def State.moveTo (s : State) (pos : Nat) : State :=
  { s with cursor := { s.cursor with byteOff := pos / 8, bitOff := pos % 8 } }

/-- A source is bound at position 0 (40_cursor.md R121). -/
def State.bindSource (s : State) (src : Source) : State :=
  { s with cursor := { src := some src, byteOff := 0, bitOff := 0 } }

/-- `SrcRead(i)` (20_memory.md R50); `none` past the end, where no rule calls it. -/
def srcRead (src : Source) (i : Nat) : Option Entry := src[i]?

/-- Whether a read of `n` bits at `p` touches a `Fault` entry: entries `p div 8` to
`(p + n - 1) div 8` (20_memory.md R58, 40_cursor.md R120). -/
def touchesFault (src : Source) (p n : Nat) : Bool :=
  (List.range' (p / 8) ((p + n - 1) / 8 + 1 - p / 8)).any
    fun j => decide (srcRead src j = some .fault)

/-- Bit `q` of the stream: bit `7 - (q mod 8)` of byte `q div 8` (20_memory.md R52). -/
def streamBit (src : Source) (q : Nat) : Bool :=
  match srcRead src (q / 8) with
  | some (.byte b) => b.getLsbD (7 - q % 8)
  | _ => Config.offSource q

/-- The value of the `n` bits from `p` on, the first one read most significant
(20_memory.md R53, 40_cursor.md R120). -/
def streamValue (src : Source) (p : Nat) : Nat → Nat
  | 0 => 0
  | n + 1 => 2 * streamValue src p n + (streamBit src (p + n)).toNat

/-- What the read primitive returns (40_cursor.md R120). -/
inductive ReadResult where
  /-- `OK(v)`, and the state with the cursor advanced -/
  | ok (v : Nat) (s : State)
  /-- `EOS`: nothing changed -/
  | eos
  /-- `FAULT`: nothing changed -/
  | fault
deriving DecidableEq, Repr

/-- `ReadBits(n)` on the bound source `src` (40_cursor.md R120): the test for the end comes first,
then the test for `Fault` entries; a failed read changes nothing. -/
def readBits (src : Source) (n : Nat) (s : State) : ReadResult :=
  if s.cursor.pos + n > 8 * src.length then .eos
  else if touchesFault src s.cursor.pos n then .fault
  else .ok (streamValue src s.cursor.pos n) (s.moveTo (s.cursor.pos + n))

/-! ### The fields of the session -/

/-- `st.adpcm.mode <- m`. -/
def State.setMode (s : State) (m : Mode) : State := { s with adpcm := { s.adpcm with mode := m } }

/-- `st.adpcm.bps <- size`. -/
def State.setBps (s : State) (size : CodeSize) : State :=
  { s with adpcm := { s.adpcm with bps := size } }

/-- `st.adpcm.block_counter <- n`. -/
def State.setBlockCounter (s : State) (n : Nat) : State :=
  { s with adpcm := { s.adpcm with blockCounter := n } }

/-- `st.adpcm.ch[c]`. -/
def State.channel (s : State) : Channel → ChannelState
  | .left => s.adpcm.left
  | .right => s.adpcm.right

/-- `st.adpcm.ch[c] <- ch`. -/
def State.setChannel (s : State) (c : Channel) (ch : ChannelState) : State :=
  match c with
  | .left => { s with adpcm := { s.adpcm with left := ch } }
  | .right => { s with adpcm := { s.adpcm with right := ch } }

/-- `st.adpcm.ch[c].sample <- v`. -/
def State.setSample (s : State) (c : Channel) (v : Int) : State :=
  s.setChannel c { s.channel c with sample := some v }

/-- `st.adpcm.ch[c].step_index <- k`. -/
def State.setStepIndex (s : State) (c : Channel) (k : Nat) : State :=
  s.setChannel c { s.channel c with stepIndex := some k }

/-! ### The external services -/

/-- The first answer listed for a buffer. -/
def knownAnswer {α : Type} (z : Buffer) : List (Buffer × α) → Option α
  | [] => none
  | (z', a) :: rest => if z' = z then some a else knownAnswer z rest

/-- `INFLATE(z)` (60_exceptions.md R248): the answer known as data, else the constant with no body
(log entry 4). `none` is Fail. -/
def State.inflate (s : State) (z : Buffer) : Option Buffer :=
  match knownAnswer z s.params.inflateAnswers with
  | some a => a
  | none => Config.inflate z

/-- `JPEG_DECODE(z)` (60_exceptions.md R248): as `State.inflate`. -/
def State.jpegDecode (s : State) (z : Buffer) : Option JpegImage :=
  match knownAnswer z s.params.jpegAnswers with
  | some a => a
  | none => Config.jpegDecode z

/-! ### The host's events -/

/-- The host has issued its next event; `rest` is what it has yet to issue. -/
def State.issued (s : State) (rest : List HostEvent) : State :=
  { s with host := { s.host with program := rest } }

/-- The reset event (70_reset_and_hazards.md R260): every field to its reset value, the parameters
kept (R261, R262), no response. -/
def State.resetBlock (s : State) : State := { s with cursor := .reset, adpcm := .reset }

/-- Idle: no command is issued, and all state is kept (60_exceptions.md R252,
70_reset_and_hazards.md R261). -/
def State.idle (s : State) : State := s

/-- An illegal command word: IllegalCommand, no state change (30_encoding.md R84,
60_exceptions.md R239). -/
def State.illegalCommand (s : State) : State := s.raise .illegalCommand

/-! ### Placing an instruction where the next step finds it (log entry 10) -/

/-- The host issues this command next. -/
def State.issueNext (s : State) (w : Word) (operands : List Operand) : State :=
  { s with host := { s.host with program := .command w operands :: s.host.program } }

/-- A mono session that has just read its size code, over the source `src`, with the cursor at
`pos`, the block counter at `counter` and the left channel at sample 0, step index 0. -/
def State.placeSession (s : State) (src : Source) (pos counter : Nat) (size : CodeSize) : State :=
  { s with
    cursor := { src := some src, byteOff := pos / 8, bitOff := pos % 8 }
    adpcm := { s.adpcm with
      mode := .active, nch := .mono, bps := size, blockCounter := counter,
      left := { sample := some 0, stepIndex := some 0 } } }

/-- Place a stream element where the next command reads it: a size code as the first bits of the
source of the ADPCM.INIT that comes next; a header as the last 22 bits of the source of a session at
a block start, so that the ADPCM.PULL that comes next runs it and nothing else; a code as the last
bits of the source of a session inside a block. -/
def State.placeElement (s : State) (due : Due) (v : Nat) : State :=
  match due with
  | .sizeCode =>
    s.issueNext 0x10000000 [.source [.byte (BitVec.ofNat 8 (v * 64))], .word 0]
  | .header _ =>
    (s.placeSession [.byte (BitVec.ofNat 8 (v / 65536)), .byte (BitVec.ofNat 8 (v / 256)),
      .byte (BitVec.ofNat 8 v)] 2 0 .b5).issueNext 0x11000000 []
  | .code size _ =>
    (s.placeSession [.byte (BitVec.ofNat 8 v)] (8 - size.bits) 1 size).issueNext 0x11000000 []

end Sys2Proof.Machine
end

