-- ==== Sys2Proof/Machine/Adpcm.lean ====
section
/-!
DEFINITION. The ADPCM sample decoder: the six stream elements (41_adpcm.md R143, R146, R148 to R155)
and the commands ADPCM.INIT and ADPCM.PULL that fetch and run them (R144, R145, R147, R156 to R160).
-/

namespace Sys2Proof.Machine

/-! ### What one code does -/

/-- `delta = ((2 * magnitude + 1) * step) div sign_mask` (41_adpcm.md R148). -/
def codeDelta (size : CodeSize) (m step : Nat) : Nat := ((2 * m + 1) * step) / size.signMask

/-- `UpdateSample` (41_adpcm.md R153). -/
def updateSample (sample : Int) (sign : Bool) (delta : Nat) : Int :=
  if sign then sample - delta else sample + delta

/-- `ClampSample` (41_adpcm.md R154): the low bound is the source's sequence, "set to 32768, then
narrow", which stores -32768 (90_conflicts.md C1). -/
def clampSample (v : Int) : Int :=
  if v < -32768 then narrow16 32768
  else if v > 32767 then 32767
  else v

/-- `NextIndex` (41_adpcm.md R155). -/
def nextIndex (p : Params) (size : CodeSize) (k m : Nat) : Nat :=
  (clampTo ((k : Int) + indexEntry p size m) 0 88).toNat

/-- `DecodeChannel` after its stream read (41_adpcm.md R148): `step` is looked up with the step
index before this code updates it. -/
def applyCode (c : Channel) (size : CodeSize) (sign : Bool) (m : Nat) (s : State) : State :=
  s.setChannel c
    { sample := some (clampSample (updateSample (sampleOr c (s.channel c)) sign
        (codeDelta size m (stepEntry s.params (stepIndexOr c (s.channel c))))))
      stepIndex := some (nextIndex s.params size (stepIndexOr c (s.channel c)) m) }

/-! ### The stream elements -/

/-- The value of a size code (41_adpcm.md R143). -/
def applySizeCode (cc : BitVec 2) (s : State) : State := s.setBps (CodeSize.ofSizeCode cc)

/-- The first read of a header: the initial sample, signed (41_adpcm.md R146). -/
def applyHeaderSample (c : Channel) (smp : BitVec 16) (s : State) : State :=
  s.setSample c (sext 16 smp.toNat)

/-- The second read of a header: the initial step index, unsigned (41_adpcm.md R146). -/
def applyHeaderIndex (c : Channel) (k : BitVec 6) (s : State) : State :=
  s.setStepIndex c k.toNat

/-- SIZE_CODE (41_adpcm.md R143). -/
def execSizeCode (cc : BitVec 2) (s : State) : Host.Outcome State Fault Refusal :=
  .next (applySizeCode cc s)

/-- HEADER (41_adpcm.md R146). -/
def execHeader (c : Channel) (smp : BitVec 16) (k : BitVec 6) (s : State) :
    Host.Outcome State Fault Refusal :=
  .next (applyHeaderIndex c k (applyHeaderSample c smp s))

/-- CODE2 (41_adpcm.md R149). -/
def execCode2 (c : Channel) (sign : Bool) (m : BitVec 1) (s : State) :
    Host.Outcome State Fault Refusal :=
  .next (applyCode c .b2 sign m.toNat s)

/-- CODE3 (41_adpcm.md R150). -/
def execCode3 (c : Channel) (sign : Bool) (m : BitVec 2) (s : State) :
    Host.Outcome State Fault Refusal :=
  .next (applyCode c .b3 sign m.toNat s)

/-- CODE4 (41_adpcm.md R151). -/
def execCode4 (c : Channel) (sign : Bool) (m : BitVec 3) (s : State) :
    Host.Outcome State Fault Refusal :=
  .next (applyCode c .b4 sign m.toNat s)

/-- CODE5 (41_adpcm.md R152). -/
def execCode5 (c : Channel) (sign : Bool) (m : BitVec 4) (s : State) :
    Host.Outcome State Fault Refusal :=
  .next (applyCode c .b5 sign m.toNat s)

/-! ### ADPCM.INIT -/

/-- The part of ADPCM.INIT before its stream read: the source bound at position 0, `nch` and `rate`
from the operands, both channels without value (41_adpcm.md R144). -/
def State.openSession (s : State) (nch : ChannelCount) (src : Source) (rate : Word) : State :=
  { s.bindSource src with
    adpcm := { s.adpcm with nch := nch, rate := rate, left := .noValue, right := .noValue } }

/-- ADPCM.INIT (41_adpcm.md R144). -/
def execAdpcmInit (nch : ChannelCount) (src : Source) (rate : Word) (s : State) :
    Host.Outcome State Fault Refusal :=
  let opened := s.openSession nch src rate
  match readBits src 2 opened with
  | .eos => .next ((opened.setMode .ended).raise .endOfStream)
  | .fault => .next ((opened.setMode .faulted).raise .sourceFault)
  | .ok v t =>
    let sized := applySizeCode (BitVec.ofNat 2 v) t
    .next (((sized.setBlockCounter 0).setMode .active).answer
      (.bps (BitVec.ofNat 8 sized.adpcm.bps.bits)))

/-! ### ADPCM.PULL -/

/-- How far a pull has come: still decoding, or ended by a failed stream read, its response given
(41_adpcm.md R145, R158, R159). -/
inductive Pulling where
  | going (s : State)
  | over (s : State)
deriving DecidableEq, Repr

/-- The pull goes on with `k` unless it is over. -/
def Pulling.andThen (p : Pulling) (k : State → Pulling) : Pulling :=
  match p with
  | .going s => k s
  | .over s => .over s

/-- `StreamRead(n)` followed by `k` (41_adpcm.md R145): EOS ends the session (R158), FAULT faults it
(R159); what the pull has done so far stands. -/
def streamRead (src : Source) (n : Nat) (s : State) (k : Nat → State → State) : Pulling :=
  match readBits src n s with
  | .eos => .over ((s.setMode .ended).raise .endOfStream)
  | .fault => .over ((s.setMode .faulted).raise .sourceFault)
  | .ok v t => .going (k v t)

/-- `ReadHeader(c)` (41_adpcm.md R146): two reads, each one's effect made as it succeeds. -/
def readHeader (src : Source) (c : Channel) (s : State) : Pulling :=
  (streamRead src 16 s fun v t => applyHeaderSample c (BitVec.ofNat 16 v) t).andThen fun t =>
    streamRead src 6 t fun v u => applyHeaderIndex c (BitVec.ofNat 6 v) u

/-- `DecodeChannel(c)` (41_adpcm.md R148). -/
def decodeChannel (src : Source) (c : Channel) (s : State) : Pulling :=
  streamRead src s.adpcm.bps.bits s fun v t =>
    applyCode c s.adpcm.bps (codeSign s.adpcm.bps v) (codeMagnitude s.adpcm.bps v) t

/-- `for c in 0 .. nch - 1`: the body for each channel in order (41_adpcm.md R145). -/
def forChannels (body : Channel → State → Pulling) : List Channel → State → Pulling
  | [], s => .going s
  | c :: cs, s => (body c s).andThen (forChannels body cs)

/-- `Emit()` (41_adpcm.md R157). -/
def emitted (s : State) : Payload :=
  match s.adpcm.nch with
  | .mono => .mono (toI16 (narrow16 (sampleOr .left s.adpcm.left)))
  | .stereo =>
    .stereo (toI16 (narrow16 (sampleOr .left s.adpcm.left)))
      (toI16 (narrow16 (sampleOr .right s.adpcm.right)))

/-- The block counter takes its next value and the instant is emitted (41_adpcm.md R156, R157). -/
def State.emitInstant (s : State) (counter : Nat) : State :=
  (s.setBlockCounter counter).answer (emitted s)

/-- One code per channel, then the instant (41_adpcm.md R145, R156). -/
def pullCodes (src : Source) (s : State) : State :=
  match forChannels (decodeChannel src) (channelsOf s.adpcm.nch) s with
  | .over t => t
  | .going t => t.emitInstant ((t.adpcm.blockCounter + 1) % 4095)

/-- A pull in mode ACTIVE (41_adpcm.md R145, R147). -/
def pullActive (src : Source) (s : State) : State :=
  if s.adpcm.blockCounter = 0 then
    match forChannels (readHeader src) (channelsOf s.adpcm.nch) s with
    | .over t => t
    | .going t =>
      match t.params.headerEmit with
      | .emitInitial => t.emitInstant 1
      | .decodeSamePull => pullCodes src t
  else pullCodes src s

/-- ADPCM.PULL (41_adpcm.md R145, R160). A session without a source, which no run reaches, breaks
the precondition of the read primitive (40_cursor.md R120, log entry 8). -/
def execAdpcmPull (s : State) : Host.Outcome State Fault Refusal :=
  match s.adpcm.mode with
  | .uninit => .next (s.raise .notInitialized)
  | .ended => .next (s.raise .endOfStream)
  | .faulted => .next (s.raise .endOfStream)
  | .active =>
    match s.cursor.src with
    | none => .fault .noBoundSource
    | some src => .next (pullActive src s)

end Sys2Proof.Machine
end

