-- ==== Sys2Proof/Machine/Cursor.lean ====
section
/-!
DEFINITION. The cursor commands CUR.BIND, CUR.RDU and CUR.RDS (40_cursor.md R121 to R128).
-/

namespace Sys2Proof.Machine

/-- CUR.BIND (40_cursor.md R121): the source is bound at position 0 and any session is ended. -/
def execCurBind (src : Source) (s : State) : Host.Outcome State Fault Refusal :=
  .next (((s.bindSource src).setMode .uninit).answer .empty)

/-- The common form of CUR.RDU and CUR.RDS (40_cursor.md R122, R123, R127): IllegalCommand, then
NotInitialized, then the read; `view` is the response value of the bits read. -/
def cursorRead (n : BitVec 6) (view : Nat → Word) (s : State) : State :=
  if widthLegal n then
    match s.cursor.src with
    | none => s.raise .notInitialized
    | some src =>
      match readBits src n.toNat s with
      | .eos => s.raise .endOfStream
      | .fault => s.raise .sourceFault
      | .ok v t => t.answer (.value (view v))
  else s.raise .illegalCommand

/-- CUR.RDU (40_cursor.md R122): `VALUE = zext_32(v)`. -/
def execCurRdu (n : BitVec 6) (s : State) : Host.Outcome State Fault Refusal :=
  .next (cursorRead n (fun v => BitVec.ofNat 32 v) s)

/-- CUR.RDS (40_cursor.md R123): `VALUE = sext_n(v) mod 2^32`. -/
def execCurRds (n : BitVec 6) (s : State) : Host.Outcome State Fault Refusal :=
  .next (cursorRead n (fun v => BitVec.ofInt 32 (sext n.toNat v)) s)

end Sys2Proof.Machine
end

