-- ==== Sys2Proof/Machine/Image.lean ====
section
/-!
DEFINITION. The image pack unit: IMG.ALPHA (42_image.md R191 to R193) and the eight selections of
IMG.LOSSLESS (R194 to R210). No command here reads or writes the cursor or the session (R190).
-/

namespace Sys2Proof.Machine

/-- What packing a pixel block gives: the output buffer, a failure, or the refusal of
42_image.md R208. -/
inductive Packed where
  | out (buf : Buffer)
  | failed (why : Failure)
  | tooLarge
deriving DecidableEq, Repr

/-- The length check, the size bound and then the pixels, each four bytes R, G, B, A in the order of
their numbers (42_image.md R207, R208, 30_encoding.md R97). -/
def packPixels (maxBytes w h : Nat) (enough : Bool) (pixel : Nat → Buffer) : Packed :=
  if enough then
    if 4 * w * h > maxBytes then .tooLarge
    else .out ((List.range (w * h)).flatMap pixel)
  else .failed .sizeMismatch

/-- How an image command ends: it writes no state but the response (42_image.md R190). -/
def State.finishImage (s : State) (width height : Word) :
    Packed → Host.Outcome State Fault Refusal
  | .out buf => .next (s.answer (.image width height buf))
  | .failed why => .next (s.raise why)
  | .tooLarge => .refused .outputTooLarge

/-! ### IMG.ALPHA -/

/-- Pixel `i`'s (R, G, B) with alpha byte `i` (42_image.md R191). -/
def alphaPixel (rgb a : Buffer) (i : Nat) : Buffer :=
  [bufferByte rgb (3 * i), bufferByte rgb (3 * i + 1), bufferByte rgb (3 * i + 2), bufferByte a i]

/-- The merge (42_image.md R191, R193). -/
def packAlpha (maxBytes w h : Nat) (rgb a : Buffer) : Packed :=
  packPixels maxBytes w h (decide (3 * w * h ≤ rgb.length) && decide (w * h ≤ a.length))
    (alphaPixel rgb a)

/-- IMG.ALPHA (42_image.md R191): DecodeError, then InflateError, then SizeMismatch (R192). -/
def execImgAlpha (jpeg alphaZ : Buffer) (s : State) : Host.Outcome State Fault Refusal :=
  match s.jpegDecode jpeg with
  | none => .next (s.raise .decodeError)
  | some j =>
    match s.inflate alphaZ with
    | none => .next (s.raise .inflateError)
    | some a =>
      s.finishImage j.width j.height
        (packAlpha s.params.maxOutputBytes j.width.toNat j.height.toNat j.rgb a)

/-! ### IMG.LOSSLESS: Rgb32 -/

/-- Group `i`, (reserved, R, G, B), as (R, G, B, 0xFF) (42_image.md R198). -/
def v1Rgb32Pixel (d : Buffer) (i : Nat) : Buffer :=
  [bufferByte d (4 * i + 1), bufferByte d (4 * i + 2), bufferByte d (4 * i + 3), 0xFF]

/-- Group `i`, (A, R, G, B), as (R, G, B, A) (42_image.md R199). -/
def v2Rgb32Pixel (d : Buffer) (i : Nat) : Buffer :=
  [bufferByte d (4 * i + 1), bufferByte d (4 * i + 2), bufferByte d (4 * i + 3),
    bufferByte d (4 * i)]

/-- `V1_RGB32(d, w, h)` (42_image.md R198). -/
def packV1Rgb32 (maxBytes : Nat) (d : Buffer) (w h : Nat) : Packed :=
  packPixels maxBytes w h (decide (4 * w * h ≤ d.length)) (v1Rgb32Pixel d)

/-- `V2_RGB32(d, w, h)` (42_image.md R199). -/
def packV2Rgb32 (maxBytes : Nat) (d : Buffer) (w h : Nat) : Packed :=
  packPixels maxBytes w h (decide (4 * w * h ≤ d.length)) (v2Rgb32Pixel d)

/-! ### IMG.LOSSLESS: ColorMap8 -/

/-- `stride = 4 * ((w + 3) div 4)` (42_image.md R201). -/
def rowStride (w : Nat) : Nat := 4 * ((w + 3) / 4)

/-- Palette entry `j` of version 1: 3 bytes, alpha 255 implicit (42_image.md R200). -/
def v1PaletteEntry (d : Buffer) (j : Nat) : Buffer :=
  [bufferByte d (3 * j), bufferByte d (3 * j + 1), bufferByte d (3 * j + 2), 255]

/-- Palette entry `j` of version 2: 4 bytes (42_image.md R200). -/
def v2PaletteEntry (d : Buffer) (j : Nat) : Buffer :=
  [bufferByte d (4 * j), bufferByte d (4 * j + 1), bufferByte d (4 * j + 2),
    bufferByte d (4 * j + 3)]

/-- The index byte of pixel number `i = y * w + x`: `d[base + y * stride + x]`
(42_image.md R201, R202). -/
def pixelIndex (d : Buffer) (base w i : Nat) : Nat :=
  (bufferByte d (base + i / w * rowStride w + i % w)).toNat

/-- A pixel: its palette entry, or the version's fallback for an index past `NCOL`
(42_image.md R202 to R204). -/
def cmap8Pixel (d : Buffer) (base ncol w : Nat) (entry : Nat → Buffer) (fallback : Buffer)
    (i : Nat) : Buffer :=
  if pixelIndex d base w i ≤ ncol then entry (pixelIndex d base w i) else fallback

/-- The two ColorMap8 transforms (42_image.md R200 to R203, R207, R209): the whole palette must be
there, then the index bytes up to the last one read. -/
def packCmap8 (maxBytes : Nat) (d : Buffer) (w h ncol entryBytes : Nat)
    (entry : Nat → Buffer) (fallback : Buffer) : Packed :=
  let base := entryBytes * (ncol + 1)
  if d.length < base then .failed .sizeMismatch
  else
    packPixels maxBytes w h
      (!(decide (w > 0) && decide (h > 0) && decide (d.length < base + (h - 1) * rowStride w + w)))
      (cmap8Pixel d base ncol w entry fallback)

/-- `V1_CMAP8(d, w, h, NCOL)` (42_image.md R202); out of range is opaque black (R204). -/
def packV1Cmap8 (maxBytes ncol : Nat) (d : Buffer) (w h : Nat) : Packed :=
  packCmap8 maxBytes d w h ncol 3 (v1PaletteEntry d) [0, 0, 0, 255]

/-- `V2_CMAP8(d, w, h, NCOL)` (42_image.md R203); out of range is transparent black (R204). -/
def packV2Cmap8 (maxBytes ncol : Nat) (d : Buffer) (w h : Nat) : Packed :=
  packCmap8 maxBytes d w h ncol 4 (v2PaletteEntry d) [0, 0, 0, 0]

/-! ### IMG.LOSSLESS: the eight selections -/

/-- The frame of IMG.LOSSLESS after its format check (42_image.md R194, R196): inflate, then the
selected transform. -/
def lossless (width height : Word) (dataZ : Buffer) (pack : Buffer → Nat → Nat → Packed)
    (s : State) : Host.Outcome State Fault Refusal :=
  match s.inflate dataZ with
  | none => .next (s.raise .inflateError)
  | some d => s.finishImage width height (pack d width.toNat height.toNat)

/-- A recognised format without a transform: after a successful inflate, Unimplemented
(42_image.md R205, R206); "inflate failure surfaces before any transform is attempted" (R196). -/
def losslessUnsupported (dataZ : Buffer) (s : State) : State :=
  match s.inflate dataZ with
  | none => s.raise .inflateError
  | some _ => s.raise .unimplemented

/-- IMG.LOSSLESS.V1.RGB32 (42_image.md R198); `NCOL` has no effect (R210). -/
def execImgLosslessV1Rgb32 (_ncol : Byte) (width height : Word) (dataZ : Buffer) (s : State) :
    Host.Outcome State Fault Refusal :=
  lossless width height dataZ (packV1Rgb32 s.params.maxOutputBytes) s

/-- IMG.LOSSLESS.V2.RGB32 (42_image.md R199); `NCOL` has no effect (R210). -/
def execImgLosslessV2Rgb32 (_ncol : Byte) (width height : Word) (dataZ : Buffer) (s : State) :
    Host.Outcome State Fault Refusal :=
  lossless width height dataZ (packV2Rgb32 s.params.maxOutputBytes) s

/-- IMG.LOSSLESS.V1.CMAP8 (42_image.md R202). -/
def execImgLosslessV1Cmap8 (ncol : Byte) (width height : Word) (dataZ : Buffer) (s : State) :
    Host.Outcome State Fault Refusal :=
  lossless width height dataZ (packV1Cmap8 s.params.maxOutputBytes ncol.toNat) s

/-- IMG.LOSSLESS.V2.CMAP8 (42_image.md R203). -/
def execImgLosslessV2Cmap8 (ncol : Byte) (width height : Word) (dataZ : Buffer) (s : State) :
    Host.Outcome State Fault Refusal :=
  lossless width height dataZ (packV2Cmap8 s.params.maxOutputBytes ncol.toNat) s

/-- IMG.LOSSLESS.RGB15 (42_image.md R205). -/
def execImgLosslessRgb15 (_ncol _ver : Byte) (_width _height : Word) (dataZ : Buffer) (s : State) :
    Host.Outcome State Fault Refusal :=
  .next (losslessUnsupported dataZ s)

/-- IMG.LOSSLESS.OTHER.RGB32 (42_image.md R206). -/
def execImgLosslessOtherRgb32 (_ncol _ver : Byte) (_width _height : Word) (dataZ : Buffer)
    (s : State) : Host.Outcome State Fault Refusal :=
  .next (losslessUnsupported dataZ s)

/-- IMG.LOSSLESS.OTHER.CMAP8 (42_image.md R206). -/
def execImgLosslessOtherCmap8 (_ncol _ver : Byte) (_width _height : Word) (dataZ : Buffer)
    (s : State) : Host.Outcome State Fault Refusal :=
  .next (losslessUnsupported dataZ s)

/-- IMG.LOSSLESS.BADFMT (42_image.md R195): MalformedHeader before anything is inflated. -/
def execImgLosslessBadfmt (_ncol _ver _fmt : Byte) (_width _height : Word) (_dataZ : Buffer)
    (s : State) : Host.Outcome State Fault Refusal :=
  .next (s.raise .malformedHeader)

end Sys2Proof.Machine
end

