-- ==== Sys2Proof/Machine/Dispatch.lean ====
section
/-!
DEFINITION. One arm per instruction: the direct call of its meaning.
-/

namespace Sys2Proof.Machine

def exec (i : Instr) (s : State) : Host.Outcome State Fault Refusal :=
  match i with
  | .curBind src => Sys2Proof.Machine.execCurBind src s
  | .curRdu n => Sys2Proof.Machine.execCurRdu n s
  | .curRds n => Sys2Proof.Machine.execCurRds n s
  | .adpcmInit nch src rate => Sys2Proof.Machine.execAdpcmInit nch src rate s
  | .adpcmPull => Sys2Proof.Machine.execAdpcmPull s
  | .imgAlpha jpeg alphaZ => Sys2Proof.Machine.execImgAlpha jpeg alphaZ s
  | .imgLosslessV1Rgb32 ncol w h dataZ => Sys2Proof.Machine.execImgLosslessV1Rgb32 ncol w h dataZ s
  | .imgLosslessV2Rgb32 ncol w h dataZ => Sys2Proof.Machine.execImgLosslessV2Rgb32 ncol w h dataZ s
  | .imgLosslessV1Cmap8 ncol w h dataZ => Sys2Proof.Machine.execImgLosslessV1Cmap8 ncol w h dataZ s
  | .imgLosslessV2Cmap8 ncol w h dataZ => Sys2Proof.Machine.execImgLosslessV2Cmap8 ncol w h dataZ s
  | .imgLosslessRgb15 ncol ver w h dataZ => Sys2Proof.Machine.execImgLosslessRgb15 ncol ver w h dataZ s
  | .imgLosslessOtherRgb32 ncol ver w h dataZ => Sys2Proof.Machine.execImgLosslessOtherRgb32 ncol ver w h dataZ s
  | .imgLosslessOtherCmap8 ncol ver w h dataZ => Sys2Proof.Machine.execImgLosslessOtherCmap8 ncol ver w h dataZ s
  | .imgLosslessBadfmt ncol ver fmt w h dataZ => Sys2Proof.Machine.execImgLosslessBadfmt ncol ver fmt w h dataZ s
  | .sizeCode cc => Sys2Proof.Machine.execSizeCode cc s
  | .header c smp k => Sys2Proof.Machine.execHeader c smp k s
  | .code2 c sign m => Sys2Proof.Machine.execCode2 c sign m s
  | .code3 c sign m => Sys2Proof.Machine.execCode3 c sign m s
  | .code4 c sign m => Sys2Proof.Machine.execCode4 c sign m s
  | .code5 c sign m => Sys2Proof.Machine.execCode5 c sign m s

end Sys2Proof.Machine
end

