-- ==== Sys2Proof/Machine/Step.lean ====
section
/-!
DEFINITION. One step of the machine: the host's next event (10_state.md R20, 20_memory.md R64).
-/

namespace Sys2Proof.Machine

/-- One step. A command runs to completion in it (00_scope.md R3); an illegal one answers
IllegalCommand (30_encoding.md R84); a reset event resets the block between commands
(70_reset_and_hazards.md R260); with nothing issued the block waits (R261). -/
def step (s : State) : Host.Outcome State Fault Refusal :=
  match s.host.program with
  | [] => .next s.idle
  | .reset :: rest => .next (s.issued rest).resetBlock
  | .command w operands :: rest =>
    match decode (.command w operands) with
    | .ok i => exec i (s.issued rest)
    | .error _ => .next (s.issued rest).illegalCommand

/-- The state `s` with a word of the opcode table placed where the next step runs it: a command word
is the next one the host issues, its operands empty or zero; a stream element is the one the next
command reads (log entry 10). -/
def State.withFetchWord (s : State) (nbits w : Nat) : State :=
  match tableEncoded nbits w with
  | some (.command word operands) => s.issueNext word operands
  | some (.element due v) => s.placeElement due v
  | none => s

end Sys2Proof.Machine
end

