-- ==== Sys2Proof/Safety.lean ====
section
/-!
DEFINITION. What a state of a run satisfies, in the terms the statements use, and runs of
instructions one after another.
-/

namespace Sys2Proof.Machine

/-- The constraints the spec holds the tables to (41_adpcm.md R142): all that a proof may assume of
them when it does not fix the default values. -/
structure TablesMeetR142 (p : Params) : Prop where
  stepLength : p.stepTable.length = 89
  stepRising : p.stepTable.Pairwise (· < ·)
  stepFirst : p.stepTable[0]? = some 7
  stepLast : p.stepTable[88]? = some 32767
  indexLength : ∀ size : CodeSize, (indexVariant p.indexTable size).length = 2 ^ (size.bits - 1)

/-- The cursor invariant (10_state.md R22): `0 <= bit_off <= 7` and `0 <= pos <= 8 * L`; with no
source bound, position 0 (10_state.md R36). -/
def CursorInRange (c : Cursor) : Prop :=
  c.bitOff ≤ 7 ∧
    match c.src with
    | none => c.pos = 0
    | some src => c.pos ≤ 8 * src.length

/-- The ranges of a channel's fields, where they hold a value (10_state.md R27). -/
def ChannelInRange (ch : ChannelState) : Prop :=
  (∀ v, ch.sample = some v → -32768 ≤ v ∧ v ≤ 32767) ∧ (∀ k, ch.stepIndex = some k → k ≤ 88)

/-- Both fields of a channel hold a value. -/
def ChannelPresent (ch : ChannelState) : Prop := ch.sample ≠ none ∧ ch.stepIndex ≠ none

/-- The legal values of the state (10_state.md R22, R26, R27, R32), and what an ACTIVE session has:
a bound source, and past the first header of the session a value in every field of its channels
(R23, R27). -/
structure LegalState (s : State) : Prop where
  cursor : CursorInRange s.cursor
  counter : s.adpcm.blockCounter ≤ 4094
  left : ChannelInRange s.adpcm.left
  right : ChannelInRange s.adpcm.right
  bound : s.adpcm.mode = .active → s.cursor.src ≠ none
  present : s.adpcm.mode = .active → s.adpcm.blockCounter ≠ 0 →
    ∀ c ∈ channelsOf s.adpcm.nch, ChannelPresent (s.channel c)

/-- Instructions executed one after another, stopping at the first fault or refusal. -/
def execAll : List Instr → State → Host.Outcome State Fault Refusal
  | [], s => .next s
  | i :: is, s =>
    match exec i s with
    | .next t => execAll is t
    | .fault r => .fault r
    | .refused r => .refused r

/-- The last response the host has received. -/
def State.lastResponse (s : State) : Option Response := s.host.responses.getLast?

/-! ### What a read meets, said without the read primitive -/

/-- Bit `q` of the stream, where the source has a byte there: bit `7 - (q mod 8)` of byte `q div 8`,
bit 7 the most significant (20_memory.md R52). -/
def bitAt (src : Source) (q : Nat) : Option Bool :=
  match src[q / 8]? with
  | some (.byte b) => some (b.getLsbD (7 - q % 8))
  | _ => none

/-- `v` is the unsigned number of the `n` stream bits from `p` on: the first bit read has weight
`2^(n-1)`, the last weight 1 (20_memory.md R53). -/
def StreamBits (src : Source) (p n v : Nat) : Prop :=
  v < 2 ^ n ∧ ∀ t < n, bitAt src (p + t) = some (v.testBit (n - 1 - t))

/-- A `Fault` entry lies among those a read of `n` bits at `p` touches (20_memory.md R58). -/
def FaultAmong (src : Source) (p n : Nat) : Prop :=
  ∃ j < src.length, p / 8 ≤ j ∧ j ≤ (p + n - 1) / 8 ∧ src[j]? = some .fault

/-- `n` bits can be read at `p`: they are there, and no `Fault` entry is touched
(40_cursor.md R124, R125). -/
def Readable (src : Source) (p n : Nat) : Prop :=
  p + n ≤ 8 * src.length ∧ ¬ FaultAmong src p n

/-- How a read of `n` bits at `p` fails inside a pull: the mode the session ends in and the status
(41_adpcm.md R158, R159). -/
def ReadFails (src : Source) (p n : Nat) (mode : Mode) (why : Failure) : Prop :=
  (8 * src.length < p + n ∧ mode = .ended ∧ why = .endOfStream) ∨
  (p + n ≤ 8 * src.length ∧ FaultAmong src p n ∧ mode = .faulted ∧ why = .sourceFault)

/-! ### The stream elements of a pull -/

/-- The elements the next pull reads, known from the state (30_encoding.md R92, 41_adpcm.md R145,
R147): at a block start one header per channel, then, but under `EMIT_INITIAL`, one code per channel;
inside a block one code per channel. -/
def dueElements (s : State) : List Due :=
  let headers := (channelsOf s.adpcm.nch).map Due.header
  let codes := (channelsOf s.adpcm.nch).map (Due.code s.adpcm.bps)
  if s.adpcm.blockCounter = 0 then
    match s.params.headerEmit with
    | .emitInitial => headers
    | .decodeSamePull => headers ++ codes
  else codes

/-- The bits those elements take. -/
def dueBits (s : State) : Nat := ((dueElements s).map Due.width).sum

/-- The block counter after a pull that emits (41_adpcm.md R147, R156). -/
def counterAfter (s : State) : Nat :=
  if s.adpcm.blockCounter = 0 ∧ s.params.headerEmit = .emitInitial then 1
  else (s.adpcm.blockCounter + 1) % 4095

/-- Fetching elements one after another at the cursor and executing each: the bits are read, the
cursor moves by the element's width, the decoder says which instruction they are, and `exec` runs it
(10_state.md R28). -/
inductive ElementsRun (src : Source) : List Due → State → State → Prop where
  | none (s : State) : ElementsRun src [] s s
  | more {due : Due} {rest : List Due} {v : Nat} {i : Instr} {s t u : State}
      (bits : StreamBits src s.cursor.pos due.width v)
      (dec : decode (.element due v) = .ok i)
      (run : exec i (s.moveTo (s.cursor.pos + due.width)) = .next t)
      (tail : ElementsRun src rest t u) : ElementsRun src (due :: rest) s u

/-- The payload of a pull is the samples of the session's channels, each an i16 in range
(41_adpcm.md R157). -/
def InstantOf (s : State) (payload : Payload) : Prop :=
  match s.adpcm.nch, payload with
  | .mono, .mono l => s.adpcm.left.sample = some l.toInt
  | .stereo, .stereo l r => s.adpcm.left.sample = some l.toInt ∧ s.adpcm.right.sample = some r.toInt
  | _, _ => False

/-! ### Commands and their responses -/

/-- The instruction is a command; the others are stream elements (30_encoding.md R80). -/
def isCommand : Instr → Bool
  | .sizeCode _ => false
  | .header _ _ _ => false
  | .code2 _ _ _ => false
  | .code3 _ _ _ => false
  | .code4 _ _ _ => false
  | .code5 _ _ _ => false
  | .curBind _ => true
  | .curRdu _ => true
  | .curRds _ => true
  | .adpcmInit _ _ _ => true
  | .adpcmPull => true
  | .imgAlpha _ _ => true
  | .imgLosslessV1Rgb32 _ _ _ _ => true
  | .imgLosslessV2Rgb32 _ _ _ _ => true
  | .imgLosslessV1Cmap8 _ _ _ _ => true
  | .imgLosslessV2Cmap8 _ _ _ _ => true
  | .imgLosslessRgb15 _ _ _ _ _ => true
  | .imgLosslessOtherRgb32 _ _ _ _ _ => true
  | .imgLosslessOtherCmap8 _ _ _ _ _ => true
  | .imgLosslessBadfmt _ _ _ _ _ _ => true

/-- The instruction is an image command (42_image.md R190). -/
def isImageCommand : Instr → Bool
  | .imgAlpha _ _ => true
  | .imgLosslessV1Rgb32 _ _ _ _ => true
  | .imgLosslessV2Rgb32 _ _ _ _ => true
  | .imgLosslessV1Cmap8 _ _ _ _ => true
  | .imgLosslessV2Cmap8 _ _ _ _ => true
  | .imgLosslessRgb15 _ _ _ _ _ => true
  | .imgLosslessOtherRgb32 _ _ _ _ _ => true
  | .imgLosslessOtherCmap8 _ _ _ _ _ => true
  | .imgLosslessBadfmt _ _ _ _ _ _ => true
  | .curBind _ => false
  | .curRdu _ => false
  | .curRds _ => false
  | .adpcmInit _ _ _ => false
  | .adpcmPull => false
  | .sizeCode _ => false
  | .header _ _ _ => false
  | .code2 _ _ _ => false
  | .code3 _ _ _ => false
  | .code4 _ _ _ => false
  | .code5 _ _ _ => false

/-- An image payload of `4 * WIDTH * HEIGHT` bytes (30_encoding.md R85). -/
def IsImage : Payload → Prop
  | .image w h out => out.length = 4 * w.toNat * h.toNat
  | _ => False

/-- The payload that an OK response of a command carries (30_encoding.md R85); `nch` is the channel
count of the session. A row of IMG.LOSSLESS without a transform never answers OK. -/
def PayloadFits (nch : ChannelCount) : Instr → Payload → Prop
  | .curBind _, p => p = .empty
  | .curRdu _, p => ∃ v, p = .value v
  | .curRds _, p => ∃ v, p = .value v
  | .adpcmInit _ _ _, p => ∃ b : Byte, p = .bps b ∧ 2 ≤ b.toNat ∧ b.toNat ≤ 5
  | .adpcmPull, p =>
    match nch with
    | .mono => ∃ l, p = .mono l
    | .stereo => ∃ l r, p = .stereo l r
  | .imgAlpha _ _, p => IsImage p
  | .imgLosslessV1Rgb32 _ _ _ _, p => IsImage p
  | .imgLosslessV2Rgb32 _ _ _ _, p => IsImage p
  | .imgLosslessV1Cmap8 _ _ _ _, p => IsImage p
  | .imgLosslessV2Cmap8 _ _ _ _, p => IsImage p
  | _, _ => False

/-! ### Illegal command words, said without the decoder -/

/-- The kind of an operand (30_encoding.md R82). -/
inductive OperandKind where
  | source
  | buffer
  | word
deriving DecidableEq, Repr

/-- The kind of an operand (30_encoding.md R82). -/
def kindOf : Operand → OperandKind
  | .source _ => .source
  | .buffer _ => .buffer
  | .word _ => .word

/-- The opcode map (30_encoding.md R83): for an assigned `OP`, the reserved bits of the word (R81)
and the kinds of the operands (R82). -/
def opcodeMap : Nat → Option (Word × List OperandKind)
  | 0x01 => some (0x00FFFFFF, [.source])
  | 0x02 => some (0x00FFFFC0, [])
  | 0x03 => some (0x00FFFFC0, [])
  | 0x10 => some (0x00FFFFFE, [.source, .word])
  | 0x11 => some (0x00FFFFFF, [])
  | 0x20 => some (0x00FFFFFF, [.buffer, .buffer])
  | 0x21 => some (0x00000000, [.word, .word, .buffer])
  | _ => none

/-- The number in `OP` = [31:24] (30_encoding.md R81). -/
def opNumber (w : Word) : Nat := w.toNat / 2 ^ 24

/-- The causes of IllegalCommand (30_encoding.md R84): `OP` unassigned; a reserved bit set; CUR.RDU or
CUR.RDS with a width of 0 or past 32; an operand list that does not match. -/
def IllegalCommandWord (w : Word) (operands : List Operand) : Prop :=
  match opcodeMap (opNumber w) with
  | none => True
  | some (reserved, kinds) =>
    w &&& reserved ≠ 0 ∨ operands.map kindOf ≠ kinds ∨
      ((opNumber w = 2 ∨ opNumber w = 3) ∧ (w.toNat % 64 = 0 ∨ 32 < w.toNat % 64))

end Sys2Proof.Machine
end

