-- ==== Sys2Proof/Certificates/Slice0/Obligations.lean ====
section
/-!
DEFINITION. The statements for the provers: what the numbered rules of spec/ say the instructions
and the machine do.
-/

open Sys2Proof Sys2Proof.Machine

/-! ### Encoding -/

/-- Every well-formed instruction is read back from its encoding, with every operand at every value
the encoding admits (30_encoding.md R81 to R91). -/
def Obligations.DecodeReadsBackEveryEncoding : Prop :=
  ∀ i : Instr, WellFormed i = true → decode (encode i) = .ok i

/-- What decodes is the encoding of the instruction it decodes to, and that instruction is
well-formed: no two words or operand lists share an instruction, and no bit is dropped
(30_encoding.md R81 to R91, 42_image.md R197). -/
def Obligations.DecodableWordsAreEncodings : Prop :=
  ∀ (e : Encoded) (i : Instr), decode e = .ok i → encode i = e ∧ WellFormed i = true

/-- Words and stream elements written out from the spec's tables and examples decode to the
instructions they stand for (30_encoding.md R83, R88 to R91; 95_test_vectors.md). -/
def Obligations.SampleEncodingsDecode : Prop :=
  decode (.command 0x01000000 [.source []]) = .ok (.curBind []) ∧
  decode (.command 0x02000003 []) = .ok (.curRdu 3) ∧
  decode (.command 0x03000004 []) = .ok (.curRds 4) ∧
  decode (.command 0x10000001 [.source [], .word 22050]) = .ok (.adpcmInit .stereo [] 22050) ∧
  decode (.command 0x11000000 []) = .ok .adpcmPull ∧
  decode (.command 0x20000000 [.buffer [1], .buffer [2]]) = .ok (.imgAlpha [1] [2]) ∧
  decode (.command 0x21010103 [.word 3, .word 2, .buffer [6]]) =
    .ok (.imgLosslessV1Cmap8 1 3 2 [6]) ∧
  decode (.element .sizeCode 0b10) = .ok (.sizeCode 2) ∧
  decode (.element (.header .left) 0b0000001111101000010100) = .ok (.header .left 1000 20) ∧
  decode (.element (.code .b4 .left) 0b1111) = .ok (.code4 .left true 7)

/-! ### The step and the host's events -/

/-- When the next command decodes to an instruction, the step is that instruction's meaning, run in
the state in which the host has issued the command (00_scope.md R3, 20_memory.md R64). -/
def Obligations.StepRunsTheDecodedCommand : Prop :=
  ∀ (s : State) (w : Word) (operands : List Operand) (rest : List HostEvent) (i : Instr),
    s.host.program = .command w operands :: rest →
    decode (.command w operands) = .ok i →
    step s = exec i { s with host := { s.host with program := rest } }

/-- IllegalCommand is raised by exactly the commands that R84 calls illegal, before anything else,
and changes nothing but the response; every other command decodes to a well-formed instruction, is
run, and does not answer IllegalCommand (30_encoding.md R84, 60_exceptions.md R239). -/
def Obligations.IllegalCommandIsRaisedExactlyByIllegalWords : Prop :=
  ∀ (s : State) (w : Word) (operands : List Operand) (rest : List HostEvent),
    s.host.program = .command w operands :: rest →
    (IllegalCommandWord w operands →
      step s = .next { s with
        host := { program := rest, responses := s.host.responses ++ [.failed .illegalCommand] } }) ∧
    (¬ IllegalCommandWord w operands →
      ∃ i, decode (.command w operands) = .ok i ∧ WellFormed i = true ∧
        step s = exec i { s with host := { s.host with program := rest } } ∧
        ∀ t, step s = .next t →
          t.host.responses ≠ s.host.responses ++ [.failed .illegalCommand])

/-- With nothing issued the block is idle and all its state is kept (60_exceptions.md R252). -/
def Obligations.IdleBlockKeepsItsState : Prop :=
  ∀ s : State, s.host.program = [] → step s = .next s

/-- A reset event: no source bound, position 0, mode UNINIT, the channel fields with no value; the
parameters kept, no response (70_reset_and_hazards.md R260, R261). That `nch`, `rate`, `bps` and the
block counter become mono, 0, 2 and 0 is the model's choice (log entry 5). -/
def Obligations.ResetEventRestoresTheResetState : Prop :=
  ∀ (s : State) (rest : List HostEvent), s.host.program = .reset :: rest →
    step s = .next
      { cursor := { src := none, byteOff := 0, bitOff := 0 }
        adpcm :=
          { mode := .uninit, nch := .mono, rate := 0, bps := .b2, blockCounter := 0,
            left := { sample := none, stepIndex := none },
            right := { sample := none, stepIndex := none } }
        params := s.params
        host := { program := rest, responses := s.host.responses } }

/-- The state after reset has the values R36 gives: no source, offsets 0, UNINIT, channel fields
with no value (10_state.md R36). The two clauses on the parameters are the model's choice, PRESUMED,
log entry 2: R36 lists no parameter and the host fixes them before the first command, and the model's
reset state holds default tables that meet their constraints and HEADER_EMIT = DECODE_SAME_PULL. -/
def Obligations.ResetStateHasTheValuesOfTheTable : Prop :=
  State.reset.cursor = { src := none, byteOff := 0, bitOff := 0 } ∧
  State.reset.adpcm.mode = .uninit ∧
  State.reset.adpcm.left = { sample := none, stepIndex := none } ∧
  State.reset.adpcm.right = { sample := none, stepIndex := none } ∧
  TablesMeetR142 State.reset.params ∧
  State.reset.params.headerEmit = .decodeSamePull

/-- The state after reset meets the invariant of the machine; that its block counter is in range rests
on the reset value 0, which is the model's choice (log entry 5) (10_state.md R22, R27, R36). -/
def Obligations.ResetMeetsTheInvariant : Prop := LegalState State.reset

/-- Every step keeps the invariant: the cursor inside its source, the block counter in 0..4094,
samples and step indices in range, an ACTIVE session with a source and, past its first header, with
values in its channels (10_state.md R22, R26, R27). -/
def Obligations.EveryStepKeepsTheInvariant : Prop :=
  ∀ s t : State, LegalState s → step s = .next t → LegalState t

/-- In a state that meets the invariant no step faults, and the only refusal is that of an output
larger than MAX_OUTPUT_BYTES (60_exceptions.md R230, 42_image.md R208). -/
def Obligations.StepsOfLegalStatesNeverFault : Prop :=
  ∀ s : State, LegalState s →
    (∃ t, step s = .next t) ∨ step s = .refused .outputTooLarge

/-- A step takes one event of the host, gives it at most one response, and leaves the parameters as
they are (00_scope.md R3, 70_reset_and_hazards.md R262). -/
def Obligations.StepTakesOneHostEvent : Prop :=
  ∀ s t : State, step s = .next t →
    t.params = s.params ∧ t.host.program = s.host.program.tail ∧
      (t.host.responses = s.host.responses ∨ ∃ r, t.host.responses = s.host.responses ++ [r])

/-- What a command may write: none the parameters; an image command neither cursor nor session;
CUR.RDU and CUR.RDS neither the source nor the session; CUR.BIND of the session only the mode;
ADPCM.PULL neither the source nor `nch`, `rate` and `bps`. A stream element, which runs inside
ADPCM.INIT or ADPCM.PULL, keeps the cursor, the host's record, `mode`, `nch`, `rate` and the block
counter; SIZE_CODE keeps the channels, the others keep `bps` (10_state.md R32). -/
def Obligations.FieldsAreWrittenOnlyByTheirRules : Prop :=
  ∀ (i : Instr) (s t : State), exec i s = .next t →
    t.params = s.params ∧
    (isImageCommand i = true → t.cursor = s.cursor ∧ t.adpcm = s.adpcm) ∧
    ((∃ n, i = .curRdu n ∨ i = .curRds n) →
      t.cursor.src = s.cursor.src ∧ t.adpcm = s.adpcm) ∧
    (∀ src, i = .curBind src → t.adpcm = { s.adpcm with mode := .uninit }) ∧
    (i = .adpcmPull →
      t.cursor.src = s.cursor.src ∧ t.adpcm.nch = s.adpcm.nch ∧ t.adpcm.rate = s.adpcm.rate ∧
        t.adpcm.bps = s.adpcm.bps) ∧
    (isCommand i = false → t.cursor = s.cursor ∧ t.host = s.host ∧ t.adpcm.mode = s.adpcm.mode ∧
      t.adpcm.nch = s.adpcm.nch ∧ t.adpcm.rate = s.adpcm.rate ∧
      t.adpcm.blockCounter = s.adpcm.blockCounter) ∧
    (∀ cc, i = .sizeCode cc → t.adpcm.left = s.adpcm.left ∧ t.adpcm.right = s.adpcm.right) ∧
    (isCommand i = false → (∀ cc, i ≠ .sizeCode cc) → t.adpcm.bps = s.adpcm.bps)

/-- Every command returns exactly one response, and the payload of an OK response has the
kind that the table of R85 gives the command, with its range or length (30_encoding.md R85). -/
def Obligations.EveryCommandGivesOneFittingResponse : Prop :=
  ∀ (i : Instr) (s t : State), isCommand i = true → exec i s = .next t →
    ∃ r, t.host.responses = s.host.responses ++ [r] ∧ t.host.program = s.host.program ∧
      ∀ p, r = .ok p → PayloadFits s.adpcm.nch i p

/-- IllegalCommand, NotInitialized, MalformedHeader, InflateError, DecodeError, SizeMismatch and
Unimplemented change no state (60_exceptions.md R244). -/
def Obligations.FailuresOtherThanReadFailuresChangeNothing : Prop :=
  ∀ (i : Instr) (s t : State) (why : Failure), exec i s = .next t →
    t.host.responses = s.host.responses ++ [.failed why] →
    why ≠ .endOfStream → why ≠ .sourceFault →
    t = { s with host := { s.host with responses := s.host.responses ++ [.failed why] } }

/-- The numbers of the status codes; 10 to 255 are never returned, and no two share a number
(30_encoding.md R86). -/
def Obligations.StatusCodesAreThoseOfTheTable : Prop :=
  (∀ p, (Response.ok p).status = 0) ∧
  (Response.failed .endOfStream).status = 1 ∧ (Response.failed .malformedHeader).status = 2 ∧
  (Response.failed .inflateError).status = 3 ∧ (Response.failed .decodeError).status = 4 ∧
  (Response.failed .sizeMismatch).status = 5 ∧ (Response.failed .unimplemented).status = 6 ∧
  (Response.failed .sourceFault).status = 7 ∧ (Response.failed .illegalCommand).status = 8 ∧
  (Response.failed .notInitialized).status = 9 ∧
  ∀ r : Response, r.status.toNat ≤ 9

/-! ### The cursor commands -/

/-- CUR.BIND binds its source at position 0, ends any session, and responds OK; every other field
stays (40_cursor.md R121). -/
def Obligations.CurBindBindsAtPositionZero : Prop :=
  ∀ (src : Source) (s : State),
    exec (.curBind src) s = .next
      { s with
        cursor := { src := some src, byteOff := 0, bitOff := 0 }
        adpcm := { s.adpcm with mode := .uninit }
        host := { s.host with responses := s.host.responses ++ [.ok .empty] } }

/-- CUR.RDU of a legal width over readable bits: the value is the unsigned number of the next `n`
stream bits, the cursor advances by `n`, and nothing else changes (40_cursor.md R120, R122, R128;
20_memory.md R52, R53). -/
def Obligations.CurRduReadsUnsignedBits : Prop :=
  ∀ (n : BitVec 6) (s : State) (src : Source), 1 ≤ n.toNat → n.toNat ≤ 32 →
    s.cursor.src = some src → Readable src s.cursor.pos n.toNat →
    ∃ (v : Nat) (x : Word), StreamBits src s.cursor.pos n.toNat v ∧ x.toNat = v ∧
      exec (.curRdu n) s = .next
        { s with
          cursor :=
            { src := some src, byteOff := (s.cursor.pos + n.toNat) / 8,
              bitOff := (s.cursor.pos + n.toNat) % 8 }
          host := { s.host with responses := s.host.responses ++ [.ok (.value x)] } }

/-- CUR.RDS of a legal width over readable bits: the value, as a signed 32-bit number, is the
two's-complement reading of the next `n` stream bits; the cursor advances by `n`, and nothing else
changes (40_cursor.md R120, R123, R128; 00_scope.md R9). -/
def Obligations.CurRdsReadsSignedBits : Prop :=
  ∀ (n : BitVec 6) (s : State) (src : Source), 1 ≤ n.toNat → n.toNat ≤ 32 →
    s.cursor.src = some src → Readable src s.cursor.pos n.toNat →
    ∃ (v : Nat) (x : Word), StreamBits src s.cursor.pos n.toNat v ∧
      x.toInt = (if v.testBit (n.toNat - 1) then (v : Int) - 2 ^ n.toNat else (v : Int)) ∧
      exec (.curRds n) s = .next
        { s with
          cursor :=
            { src := some src, byteOff := (s.cursor.pos + n.toNat) / 8,
              bitOff := (s.cursor.pos + n.toNat) % 8 }
          host := { s.host with responses := s.host.responses ++ [.ok (.value x)] } }

/-- A width of 0 or 33..63 answers IllegalCommand and changes nothing, whatever else holds
(40_cursor.md R127). -/
def Obligations.CursorReadsOfIllegalWidthAreIllegal : Prop :=
  ∀ (n : BitVec 6) (s : State), n.toNat = 0 ∨ 33 ≤ n.toNat →
    exec (.curRdu n) s = .next
      { s with host := { s.host with responses := s.host.responses ++ [.failed .illegalCommand] } } ∧
    exec (.curRds n) s = .next
      { s with host := { s.host with responses := s.host.responses ++ [.failed .illegalCommand] } }

/-- CUR.RDU and CUR.RDS of a legal width with no source bound answer NotInitialized and change
nothing (40_cursor.md R126). -/
def Obligations.CursorReadsWithoutSourceAreNotInitialized : Prop :=
  ∀ (n : BitVec 6) (s : State), 1 ≤ n.toNat → n.toNat ≤ 32 → s.cursor.src = none →
    exec (.curRdu n) s = .next
      { s with host := { s.host with responses := s.host.responses ++ [.failed .notInitialized] } } ∧
    exec (.curRds n) s = .next
      { s with host := { s.host with responses := s.host.responses ++ [.failed .notInitialized] } }

/-- A read of a legal width that fails changes nothing: EndOfStream when fewer than `n` bits
remain, SourceFault when they remain and a touched entry is a `Fault`, so the end is tested first
(40_cursor.md R124, R125; 60_exceptions.md R242). -/
def Obligations.FailedCursorReadsChangeNothing : Prop :=
  ∀ (n : BitVec 6) (s : State) (src : Source), 1 ≤ n.toNat → n.toNat ≤ 32 →
    s.cursor.src = some src →
    (8 * src.length < s.cursor.pos + n.toNat →
      exec (.curRdu n) s = .next
        { s with host := { s.host with responses := s.host.responses ++ [.failed .endOfStream] } } ∧
      exec (.curRds n) s = .next
        { s with host := { s.host with responses := s.host.responses ++ [.failed .endOfStream] } }) ∧
    (s.cursor.pos + n.toNat ≤ 8 * src.length → FaultAmong src s.cursor.pos n.toNat →
      exec (.curRdu n) s = .next
        { s with host := { s.host with responses := s.host.responses ++ [.failed .sourceFault] } } ∧
      exec (.curRds n) s = .next
        { s with host := { s.host with responses := s.host.responses ++ [.failed .sourceFault] } })

/-! ### ADPCM.INIT -/

/-- ADPCM.INIT, whole: the source bound, `nch` and `rate` from the operands, the channels without
value; then the size code, the first two bits of byte 0, gives `bps` and the session is ACTIVE at
position 2 with the counter 0; an empty source leaves it ENDED and a `Fault` in byte 0 FAULTED, at
position 0 with `bps` and the counter as they were (41_adpcm.md R143, R144). -/
def Obligations.AdpcmInitStartsASession : Prop :=
  ∀ (nch : ChannelCount) (src : Source) (rate : Word) (s : State),
    let noValue : ChannelState := { sample := none, stepIndex := none }
    let failed (mode : Mode) (why : Failure) : State :=
      { s with
        cursor := { src := some src, byteOff := 0, bitOff := 0 }
        adpcm := { s.adpcm with
          mode := mode, nch := nch, rate := rate, left := noValue, right := noValue }
        host := { s.host with responses := s.host.responses ++ [.failed why] } }
    match src with
    | [] => exec (.adpcmInit nch src rate) s = .next (failed .ended .endOfStream)
    | .fault :: _ => exec (.adpcmInit nch src rate) s = .next (failed .faulted .sourceFault)
    | .byte b :: _ =>
      ∃ size : CodeSize, size.bits = b.toNat / 64 + 2 ∧
        exec (.adpcmInit nch src rate) s = .next
          { s with
            cursor := { src := some src, byteOff := 0, bitOff := 2 }
            adpcm :=
              { mode := .active, nch := nch, rate := rate, bps := size, blockCounter := 0,
                left := noValue, right := noValue }
            host := { s.host with
              responses := s.host.responses ++ [.ok (.bps (BitVec.ofNat 8 (b.toNat / 64 + 2)))] } }

/-! ### The stream elements -/

/-- SIZE_CODE sets `bits_per_sample` to `cc + 2` and nothing else (41_adpcm.md R143). -/
def Obligations.SizeCodeSetsBitsPerSample : Prop :=
  ∀ (cc : BitVec 2) (s : State),
    ∃ size : CodeSize, size.bits = cc.toNat + 2 ∧
      exec (.sizeCode cc) s = .next { s with adpcm := { s.adpcm with bps := size } }

/-- HEADER sets its channel's sample to the 16 bits read as signed and its step index to the 6 bits
read as unsigned, and nothing else (41_adpcm.md R146, 30_encoding.md R89). -/
def Obligations.HeaderSetsItsChannel : Prop :=
  ∀ (smp : BitVec 16) (k : BitVec 6) (s : State),
    exec (.header .left smp k) s = .next
      { s with adpcm := { s.adpcm with
        left := { sample := some smp.toInt, stepIndex := some k.toNat } } } ∧
    exec (.header .right smp k) s = .next
      { s with adpcm := { s.adpcm with
        right := { sample := some smp.toInt, stepIndex := some k.toNat } } }

/-- CODE2 to CODE5 on a channel that holds sample `x` and step index `k`: with the step `st` that the
step table has at `k` and the entry `e` that the format's index variant has at the magnitude, the
sample becomes `x` plus or minus `((2m + 1) * st) div sign_mask` saturated to an i16, the step index
becomes `k + e` clamped to 0..88, and nothing else changes (41_adpcm.md R148 to R155). -/
def Obligations.CodesDecodeOneSample : Prop :=
  ∀ (c : Channel) (sign : Bool) (s : State) (x : Int) (k st : Nat) (e : Int),
    s.channel c = { sample := some x, stepIndex := some k } →
    s.params.stepTable[k]? = some st →
    let signed (delta : Nat) : Int := if sign then x - delta else x + delta
    let decoded (delta : Nat) : Host.Outcome State Fault Refusal :=
      .next (s.setChannel c
        { sample := some (max (-32768) (min 32767 (signed delta)))
          stepIndex := some (max 0 (min 88 ((k : Int) + e))).toNat })
    (∀ m : BitVec 1, s.params.indexTable.v2[m.toNat]? = some e →
      exec (.code2 c sign m) s = decoded ((2 * m.toNat + 1) * st / 2)) ∧
    (∀ m : BitVec 2, s.params.indexTable.v3[m.toNat]? = some e →
      exec (.code3 c sign m) s = decoded ((2 * m.toNat + 1) * st / 4)) ∧
    (∀ m : BitVec 3, s.params.indexTable.v4[m.toNat]? = some e →
      exec (.code4 c sign m) s = decoded ((2 * m.toNat + 1) * st / 8)) ∧
    (∀ m : BitVec 4, s.params.indexTable.v5[m.toNat]? = some e →
      exec (.code5 c sign m) s = decoded ((2 * m.toNat + 1) * st / 16))

/-- The clamp: below -32768 it stores `narrow16(32768)`, which is -32768, above 32767 it stores
32767, and so it equals plain saturation (41_adpcm.md R154, 90_conflicts.md C1). -/
def Obligations.LowClampStoresMinus32768 : Prop :=
  narrow16 32768 = -32768 ∧
  ∀ v : Int, (v < -32768 → clampSample v = narrow16 32768) ∧
    clampSample v = max (-32768) (min 32767 v)

/-! ### ADPCM.PULL -/

/-- A pull of an ACTIVE session whose due bits can all be read fetches the due elements at the cursor
in stream order and executes each, then sets the counter and responds with the session's samples,
left then right (41_adpcm.md R145, R147, R156, R157; 30_encoding.md R87, R92). -/
def Obligations.PullRunsTheDueStreamElements : Prop :=
  ∀ (s : State) (src : Source), s.adpcm.mode = .active → s.cursor.src = some src →
    Readable src s.cursor.pos (dueBits s) →
    ∃ (u : State) (payload : Payload), ElementsRun src (dueElements s) s u ∧
      u.cursor.pos = s.cursor.pos + dueBits s ∧ InstantOf u payload ∧
      exec .adpcmPull s = .next
        { u with
          adpcm := { u.adpcm with blockCounter := counterAfter s }
          host := { s.host with responses := s.host.responses ++ [.ok payload] } }

/-- A pull whose read fails: the elements before it have run and their effects stand; a header whose
sample was read keeps it; the session ends (EndOfStream) or is faulted (SourceFault), the counter is
not advanced, and no instant is emitted (41_adpcm.md R158, R159; 60_exceptions.md R244). -/
def Obligations.PullEndsAtAFailedRead : Prop :=
  ∀ (s u : State) (src : Source) (before : List Due) (due : Due) (after : List Due)
    (mode : Mode) (why : Failure),
    s.adpcm.mode = .active → s.cursor.src = some src →
    dueElements s = before ++ due :: after → ElementsRun src before s u →
    (∀ size c, due = .code size c → ReadFails src u.cursor.pos size.bits mode why →
      exec .adpcmPull s = .next
        { u with
          adpcm := { u.adpcm with mode := mode }
          host := { s.host with responses := s.host.responses ++ [.failed why] } }) ∧
    (∀ c, due = .header c → ReadFails src u.cursor.pos 16 mode why →
      exec .adpcmPull s = .next
        { u with
          adpcm := { u.adpcm with mode := mode }
          host := { s.host with responses := s.host.responses ++ [.failed why] } }) ∧
    (∀ c (smp : BitVec 16), due = .header c → StreamBits src u.cursor.pos 16 smp.toNat →
      ReadFails src (u.cursor.pos + 16) 6 mode why →
      exec .adpcmPull s = .next
        ((((u.moveTo (u.cursor.pos + 16)).setSample c smp.toInt).setMode mode).raise why))

/-- A pull before any session answers NotInitialized and changes nothing (41_adpcm.md R145). -/
def Obligations.PullBeforeAnySessionIsNotInitialized : Prop :=
  ∀ s : State, s.adpcm.mode = .uninit →
    exec .adpcmPull s = .next
      { s with host := { s.host with responses := s.host.responses ++ [.failed .notInitialized] } }

/-- A session in mode ENDED or FAULTED never resumes: whatever commands other than CUR.BIND and
ADPCM.INIT come after, the ADPCM state stays and a pull answers EndOfStream and changes nothing, even
if a CUR command has moved the cursor; a pull that answers SourceFault leaves the mode FAULTED, so no
later pull of the session reports it again (41_adpcm.md R160). -/
def Obligations.TerminatedSessionsNeverResume : Prop :=
  (∀ (s t : State) (commands : List Instr), s.adpcm.mode = .ended ∨ s.adpcm.mode = .faulted →
    (∀ i ∈ commands, isCommand i = true ∧ (∀ src, i ≠ .curBind src) ∧
      ∀ nch src rate, i ≠ .adpcmInit nch src rate) →
    execAll commands s = .next t →
    t.adpcm = s.adpcm ∧
    exec .adpcmPull t = .next
      { t with host := { t.host with
        responses := t.host.responses ++ [.failed .endOfStream] } }) ∧
  ∀ s t : State, exec .adpcmPull s = .next t →
    t.host.responses = s.host.responses ++ [.failed .sourceFault] → t.adpcm.mode = .faulted

/-- Two sessions over equal sources, whatever the states and sample rates they start from, give equal
responses to equally many pulls and end in the same way (41_adpcm.md R161). -/
def Obligations.SessionsOverEqualSourcesAgree : Prop :=
  ∀ (s₁ s₂ : State) (nch : ChannelCount) (src : Source) (rate₁ rate₂ : Word) (k : Nat),
    s₁.params = s₂.params →
    ∃ (t₁ t₂ : State) (answers : List Response),
      execAll (.adpcmInit nch src rate₁ :: List.replicate k .adpcmPull) s₁ = .next t₁ ∧
      execAll (.adpcmInit nch src rate₂ :: List.replicate k .adpcmPull) s₂ = .next t₂ ∧
      answers.length = k + 1 ∧
      t₁.host.responses = s₁.host.responses ++ answers ∧
      t₂.host.responses = s₂.host.responses ++ answers ∧
      t₁.adpcm.mode = t₂.adpcm.mode ∧ t₁.cursor = t₂.cursor

/-- After every pull that returns OK, each channel of the session has its sample in -32768..32767 and
its step index in 0..88 (10_state.md R38). -/
def Obligations.OkPullsLeaveSamplesAndIndicesInRange : Prop :=
  ∀ (s t : State) (payload : Payload), exec .adpcmPull s = .next t →
    t.host.responses = s.host.responses ++ [.ok payload] →
    ∀ c ∈ channelsOf t.adpcm.nch,
      ∃ x k, t.channel c = { sample := some x, stepIndex := some k } ∧
        -32768 ≤ x ∧ x ≤ 32767 ∧ k ≤ 88

/-- The block counter: a pull that returns OK steps it modulo 4095, or sets it to 1 for a header pull
under EMIT_INITIAL; a pull that fails does not update it (41_adpcm.md R156). -/
def Obligations.BlockCounterFollowsThePulls : Prop :=
  ∀ (s t : State) (r : Response), exec .adpcmPull s = .next t →
    t.host.responses = s.host.responses ++ [r] →
    match r with
    | .ok _ => t.adpcm.blockCounter = counterAfter s
    | .failed _ => t.adpcm.blockCounter = s.adpcm.blockCounter

/-- The first `k` pulls of a block, if the session is still ACTIVE after them, have taken
`nch * (22 + k * b)` bits, or `nch * (22 + (k - 1) * b)` under EMIT_INITIAL; at `k = 4095` the block
is complete and the counter is 0 again (30_encoding.md R93, 41_adpcm.md R147, R156). -/
def Obligations.BlocksTakeTheirBits : Prop :=
  ∀ (s t : State) (k : Nat), s.adpcm.mode = .active → s.adpcm.blockCounter = 0 →
    1 ≤ k → k ≤ 4095 → execAll (List.replicate k .adpcmPull) s = .next t →
    t.adpcm.mode = .active →
    t.adpcm.blockCounter = k % 4095 ∧
    t.cursor.pos = s.cursor.pos + (channelsOf s.adpcm.nch).length *
      (22 + (match s.params.headerEmit with
        | .decodeSamePull => k
        | .emitInitial => k - 1) * s.adpcm.bps.bits)

/-! ### The image commands -/

/-- IMG.ALPHA, whole: DecodeError, then InflateError, then SizeMismatch, then the refusal of an
output past MAX_OUTPUT_BYTES; else pixel `i` is `rgb[3i]`, `rgb[3i+1]`, `rgb[3i+2]`, `a[i]`, and no
state changes but the response (42_image.md R191, R192). -/
def Obligations.ImgAlphaMergesRgbAndAlpha : Prop :=
  ∀ (jpeg alphaZ : Buffer) (s : State),
    (s.jpegDecode jpeg = none → exec (.imgAlpha jpeg alphaZ) s = .next (s.raise .decodeError)) ∧
    ∀ j, s.jpegDecode jpeg = some j →
      (s.inflate alphaZ = none → exec (.imgAlpha jpeg alphaZ) s = .next (s.raise .inflateError)) ∧
      ∀ a, s.inflate alphaZ = some a →
        let n := j.width.toNat * j.height.toNat
        (j.rgb.length < 3 * n ∨ a.length < n →
          exec (.imgAlpha jpeg alphaZ) s = .next (s.raise .sizeMismatch)) ∧
        (3 * n ≤ j.rgb.length → n ≤ a.length → s.params.maxOutputBytes < 4 * n →
          exec (.imgAlpha jpeg alphaZ) s = .refused .outputTooLarge) ∧
        (3 * n ≤ j.rgb.length → n ≤ a.length → 4 * n ≤ s.params.maxOutputBytes →
          ∃ out : Buffer, out.length = 4 * n ∧
            exec (.imgAlpha jpeg alphaZ) s = .next (s.answer (.image j.width j.height out)) ∧
            ∀ i < n, out[4 * i]? = j.rgb[3 * i]? ∧ out[4 * i + 1]? = j.rgb[3 * i + 1]? ∧
              out[4 * i + 2]? = j.rgb[3 * i + 2]? ∧ out[4 * i + 3]? = a[i]?)

/-- IMG.LOSSLESS.V1.RGB32 of a block that inflates to `d`: SizeMismatch if it is short, the refusal
past MAX_OUTPUT_BYTES, else group `i`, (reserved, R, G, B), becomes (R, G, B, 0xFF); no state changes
but the response (42_image.md R198). -/
def Obligations.V1Rgb32DropsTheReservedByte : Prop :=
  ∀ (ncol : Byte) (w h : Word) (z d : Buffer) (s : State), s.inflate z = some d →
    let n := w.toNat * h.toNat
    (d.length < 4 * n →
      exec (.imgLosslessV1Rgb32 ncol w h z) s = .next (s.raise .sizeMismatch)) ∧
    (4 * n ≤ d.length → s.params.maxOutputBytes < 4 * n →
      exec (.imgLosslessV1Rgb32 ncol w h z) s = .refused .outputTooLarge) ∧
    (4 * n ≤ d.length → 4 * n ≤ s.params.maxOutputBytes →
      ∃ out : Buffer, out.length = 4 * n ∧
        exec (.imgLosslessV1Rgb32 ncol w h z) s = .next (s.answer (.image w h out)) ∧
        ∀ i < n, out[4 * i]? = d[4 * i + 1]? ∧ out[4 * i + 1]? = d[4 * i + 2]? ∧
          out[4 * i + 2]? = d[4 * i + 3]? ∧ out[4 * i + 3]? = some 0xFF)

/-- IMG.LOSSLESS.V2.RGB32 of a block that inflates to `d`: SizeMismatch if it is short, the refusal
past MAX_OUTPUT_BYTES, else group `i`, (A, R, G, B), becomes (R, G, B, A); no state changes but the
response (42_image.md R199). -/
def Obligations.V2Rgb32RotatesEachGroup : Prop :=
  ∀ (ncol : Byte) (w h : Word) (z d : Buffer) (s : State), s.inflate z = some d →
    let n := w.toNat * h.toNat
    (d.length < 4 * n →
      exec (.imgLosslessV2Rgb32 ncol w h z) s = .next (s.raise .sizeMismatch)) ∧
    (4 * n ≤ d.length → s.params.maxOutputBytes < 4 * n →
      exec (.imgLosslessV2Rgb32 ncol w h z) s = .refused .outputTooLarge) ∧
    (4 * n ≤ d.length → 4 * n ≤ s.params.maxOutputBytes →
      ∃ out : Buffer, out.length = 4 * n ∧
        exec (.imgLosslessV2Rgb32 ncol w h z) s = .next (s.answer (.image w h out)) ∧
        ∀ i < n, out[4 * i]? = d[4 * i + 1]? ∧ out[4 * i + 1]? = d[4 * i + 2]? ∧
          out[4 * i + 2]? = d[4 * i + 3]? ∧ out[4 * i + 3]? = d[4 * i]?)

/-- IMG.LOSSLESS.V1.CMAP8 of a block that inflates to `d`: the palette of `NCOL + 1` 3-byte entries
and the rows of index bytes at stride `4 * ((w + 3) div 4)` must be there (the last row's padding
need not be), then the refusal past MAX_OUTPUT_BYTES; else pixel (x, y) is its palette entry with
alpha 255, or opaque black for an index past `NCOL` (42_image.md R200 to R202, R204). -/
def Obligations.V1Cmap8ExpandsThePalette : Prop :=
  ∀ (ncol : Byte) (w h : Word) (z d : Buffer) (s : State), s.inflate z = some d →
    let base := 3 * (ncol.toNat + 1)
    let stride := 4 * ((w.toNat + 3) / 4)
    let short := d.length < base ∨
      (0 < w.toNat ∧ 0 < h.toNat ∧ d.length < base + (h.toNat - 1) * stride + w.toNat)
    let n := w.toNat * h.toNat
    (short → exec (.imgLosslessV1Cmap8 ncol w h z) s = .next (s.raise .sizeMismatch)) ∧
    (¬ short → s.params.maxOutputBytes < 4 * n →
      exec (.imgLosslessV1Cmap8 ncol w h z) s = .refused .outputTooLarge) ∧
    (¬ short → 4 * n ≤ s.params.maxOutputBytes →
      ∃ out : Buffer, out.length = 4 * n ∧
        exec (.imgLosslessV1Cmap8 ncol w h z) s = .next (s.answer (.image w h out)) ∧
        ∀ x y, x < w.toNat → y < h.toNat →
          ∃ idx : Byte, d[base + y * stride + x]? = some idx ∧
            let i := y * w.toNat + x
            (idx.toNat ≤ ncol.toNat →
              out[4 * i]? = d[3 * idx.toNat]? ∧ out[4 * i + 1]? = d[3 * idx.toNat + 1]? ∧
                out[4 * i + 2]? = d[3 * idx.toNat + 2]? ∧ out[4 * i + 3]? = some 255) ∧
            (ncol.toNat < idx.toNat →
              out[4 * i]? = some 0 ∧ out[4 * i + 1]? = some 0 ∧ out[4 * i + 2]? = some 0 ∧
                out[4 * i + 3]? = some 255))

/-- IMG.LOSSLESS.V2.CMAP8: as V1.CMAP8 with 4-byte palette entries (R, G, B, A), copied as they are,
and transparent black for an index past `NCOL` (42_image.md R200, R201, R203, R204). -/
def Obligations.V2Cmap8ExpandsThePalette : Prop :=
  ∀ (ncol : Byte) (w h : Word) (z d : Buffer) (s : State), s.inflate z = some d →
    let base := 4 * (ncol.toNat + 1)
    let stride := 4 * ((w.toNat + 3) / 4)
    let short := d.length < base ∨
      (0 < w.toNat ∧ 0 < h.toNat ∧ d.length < base + (h.toNat - 1) * stride + w.toNat)
    let n := w.toNat * h.toNat
    (short → exec (.imgLosslessV2Cmap8 ncol w h z) s = .next (s.raise .sizeMismatch)) ∧
    (¬ short → s.params.maxOutputBytes < 4 * n →
      exec (.imgLosslessV2Cmap8 ncol w h z) s = .refused .outputTooLarge) ∧
    (¬ short → 4 * n ≤ s.params.maxOutputBytes →
      ∃ out : Buffer, out.length = 4 * n ∧
        exec (.imgLosslessV2Cmap8 ncol w h z) s = .next (s.answer (.image w h out)) ∧
        ∀ x y, x < w.toNat → y < h.toNat →
          ∃ idx : Byte, d[base + y * stride + x]? = some idx ∧
            let i := y * w.toNat + x
            (idx.toNat ≤ ncol.toNat →
              out[4 * i]? = d[4 * idx.toNat]? ∧ out[4 * i + 1]? = d[4 * idx.toNat + 1]? ∧
                out[4 * i + 2]? = d[4 * idx.toNat + 2]? ∧
                out[4 * i + 3]? = d[4 * idx.toNat + 3]?) ∧
            (ncol.toNat < idx.toNat →
              out[4 * i]? = some 0 ∧ out[4 * i + 1]? = some 0 ∧ out[4 * i + 2]? = some 0 ∧
                out[4 * i + 3]? = some 0))

/-- The row stride of the index bytes is the smallest multiple of 4 that is at least the width, and 0
for width 0 (42_image.md R201). -/
def Obligations.RowStrideIsTheNextMultipleOfFour : Prop :=
  rowStride 0 = 0 ∧ ∀ w : Nat, 4 ∣ rowStride w ∧ w ≤ rowStride w ∧
    ∀ m, 4 ∣ m → w ≤ m → rowStride w ≤ m

/-- IMG.LOSSLESS.RGB15: after a successful inflate, Unimplemented, with no output and no state change
(42_image.md R205). -/
def Obligations.Rgb15IsUnimplementedAfterInflate : Prop :=
  ∀ (ncol ver : Byte) (w h : Word) (z d : Buffer) (s : State), s.inflate z = some d →
    exec (.imgLosslessRgb15 ncol ver w h z) s = .next
      { s with host := { s.host with responses := s.host.responses ++ [.failed .unimplemented] } }

/-- IMG.LOSSLESS of Rgb32 or ColorMap8 with a version other than 1 and 2 selects the row for other
versions: after a successful inflate, Unimplemented, with no output and no state change
(42_image.md R206). -/
def Obligations.OtherPairsAreUnimplementedAfterInflate : Prop :=
  ∀ (ncol ver : Byte) (w h : Word) (z d : Buffer) (s : State), ver ≠ 1 → ver ≠ 2 →
    s.inflate z = some d →
    exec (.imgLosslessOtherRgb32 ncol ver w h z) s = .next
      { s with host := { s.host with responses := s.host.responses ++ [.failed .unimplemented] } } ∧
    exec (.imgLosslessOtherCmap8 ncol ver w h z) s = .next
      { s with host := { s.host with responses := s.host.responses ++ [.failed .unimplemented] } } ∧
    selectLossless ncol ver 5 w h z = .imgLosslessOtherRgb32 ncol ver w h z ∧
    selectLossless ncol ver 3 w h z = .imgLosslessOtherCmap8 ncol ver w h z

/-- IMG.LOSSLESS with a format code other than 3, 4 and 5 selects the row for unknown formats:
MalformedHeader before anything is inflated, with no state change (42_image.md R195). -/
def Obligations.UnknownFormatIsMalformedHeader : Prop :=
  ∀ (ncol ver fmt : Byte) (w h : Word) (z : Buffer) (s : State), fmt ≠ 3 → fmt ≠ 4 → fmt ≠ 5 →
    selectLossless ncol ver fmt w h z = .imgLosslessBadfmt ncol ver fmt w h z ∧
    exec (.imgLosslessBadfmt ncol ver fmt w h z) s = .next
      { s with host := { s.host with
        responses := s.host.responses ++ [.failed .malformedHeader] } }

/-- With a known format, a failed inflate answers InflateError before any transform is selected, and
changes no state (42_image.md R196). -/
def Obligations.InflateFailureComesBeforeAnyTransform : Prop :=
  ∀ (ncol ver fmt : Byte) (w h : Word) (z : Buffer) (s : State), fmt = 3 ∨ fmt = 4 ∨ fmt = 5 →
    s.inflate z = none →
    exec (selectLossless ncol ver fmt w h z) s = .next
      { s with host := { s.host with responses := s.host.responses ++ [.failed .inflateError] } }

/-- Zero width or height: an empty output and OK, once the inflate and, for ColorMap8, the
size check of the palette have passed (42_image.md R209). -/
def Obligations.ZeroDimensionsGiveAnEmptyOutput : Prop :=
  ∀ (ncol : Byte) (w h : Word) (z d : Buffer) (s : State), w.toNat = 0 ∨ h.toNat = 0 →
    s.inflate z = some d →
    exec (.imgLosslessV1Rgb32 ncol w h z) s = .next (s.answer (.image w h [])) ∧
    exec (.imgLosslessV2Rgb32 ncol w h z) s = .next (s.answer (.image w h [])) ∧
    exec (.imgLosslessV1Cmap8 ncol w h z) s =
      .next (if d.length < 3 * (ncol.toNat + 1) then s.raise .sizeMismatch
        else s.answer (.image w h [])) ∧
    exec (.imgLosslessV2Cmap8 ncol w h z) s =
      .next (if d.length < 4 * (ncol.toNat + 1) then s.raise .sizeMismatch
        else s.answer (.image w h []))

/-- The image commands keep no state: they write neither the cursor nor the session, on any outcome
that is a next state (42_image.md R190). -/
def Obligations.ImageCommandsKeepCursorAndSession : Prop :=
  ∀ (i : Instr) (s t : State), isImageCommand i = true → exec i s = .next t →
    ∃ r, t = { s with host := { s.host with responses := s.host.responses ++ [r] } }
end

