-- ==== Sys2Proof/Laws/State.lean ====
section
/-!
SUPPORT. One lemma per field and update of the state, so that no later proof unfolds a record
update.
-/

namespace Sys2Proof.Machine

/-! #### respond -/

@[simp] theorem State.respond_cursor (s : State) (r : Response) :
    (s.respond r).cursor = s.cursor := rfl
@[simp] theorem State.respond_params (s : State) (r : Response) :
    (s.respond r).params = s.params := rfl
@[simp] theorem State.respond_adpcm (s : State) (r : Response) :
    (s.respond r).adpcm = s.adpcm := rfl
@[simp] theorem State.respond_program (s : State) (r : Response) :
    (s.respond r).host.program = s.host.program := rfl
@[simp] theorem State.respond_responses (s : State) (r : Response) :
    (s.respond r).host.responses = s.host.responses ++ [r] := rfl

/-! #### answer -/

@[simp] theorem State.answer_cursor (s : State) (p : Payload) :
    (s.answer p).cursor = s.cursor := rfl
@[simp] theorem State.answer_params (s : State) (p : Payload) :
    (s.answer p).params = s.params := rfl
@[simp] theorem State.answer_adpcm (s : State) (p : Payload) : (s.answer p).adpcm = s.adpcm := rfl
@[simp] theorem State.answer_program (s : State) (p : Payload) :
    (s.answer p).host.program = s.host.program := rfl
@[simp] theorem State.answer_responses (s : State) (p : Payload) :
    (s.answer p).host.responses = s.host.responses ++ [.ok p] := rfl

/-! #### raise -/

@[simp] theorem State.raise_cursor (s : State) (why : Failure) :
    (s.raise why).cursor = s.cursor := rfl
@[simp] theorem State.raise_params (s : State) (why : Failure) :
    (s.raise why).params = s.params := rfl
@[simp] theorem State.raise_adpcm (s : State) (why : Failure) : (s.raise why).adpcm = s.adpcm := rfl
@[simp] theorem State.raise_program (s : State) (why : Failure) :
    (s.raise why).host.program = s.host.program := rfl
@[simp] theorem State.raise_responses (s : State) (why : Failure) :
    (s.raise why).host.responses = s.host.responses ++ [.failed why] := rfl

/-! #### moveTo -/

@[simp] theorem State.moveTo_cursor (s : State) (pos : Nat) :
    (s.moveTo pos).cursor = { src := s.cursor.src, byteOff := pos / 8, bitOff := pos % 8 } := rfl
@[simp] theorem State.moveTo_params (s : State) (pos : Nat) :
    (s.moveTo pos).params = s.params := rfl
@[simp] theorem State.moveTo_adpcm (s : State) (pos : Nat) : (s.moveTo pos).adpcm = s.adpcm := rfl
@[simp] theorem State.moveTo_host (s : State) (pos : Nat) : (s.moveTo pos).host = s.host := rfl

/-! #### bindSource -/

@[simp] theorem State.bindSource_cursor (s : State) (src : Source) :
    (s.bindSource src).cursor = { src := some src, byteOff := 0, bitOff := 0 } := rfl
@[simp] theorem State.bindSource_params (s : State) (src : Source) :
    (s.bindSource src).params = s.params := rfl
@[simp] theorem State.bindSource_adpcm (s : State) (src : Source) :
    (s.bindSource src).adpcm = s.adpcm := rfl
@[simp] theorem State.bindSource_host (s : State) (src : Source) :
    (s.bindSource src).host = s.host := rfl

/-! #### setMode -/

@[simp] theorem State.setMode_cursor (s : State) (m : Mode) : (s.setMode m).cursor = s.cursor := rfl
@[simp] theorem State.setMode_params (s : State) (m : Mode) : (s.setMode m).params = s.params := rfl
@[simp] theorem State.setMode_mode (s : State) (m : Mode) : (s.setMode m).adpcm.mode = m := rfl
@[simp] theorem State.setMode_nch (s : State) (m : Mode) :
    (s.setMode m).adpcm.nch = s.adpcm.nch := rfl
@[simp] theorem State.setMode_rate (s : State) (m : Mode) :
    (s.setMode m).adpcm.rate = s.adpcm.rate := rfl
@[simp] theorem State.setMode_bps (s : State) (m : Mode) :
    (s.setMode m).adpcm.bps = s.adpcm.bps := rfl
@[simp] theorem State.setMode_blockCounter (s : State) (m : Mode) :
    (s.setMode m).adpcm.blockCounter = s.adpcm.blockCounter := rfl
@[simp] theorem State.setMode_left (s : State) (m : Mode) :
    (s.setMode m).adpcm.left = s.adpcm.left := rfl
@[simp] theorem State.setMode_right (s : State) (m : Mode) :
    (s.setMode m).adpcm.right = s.adpcm.right := rfl
@[simp] theorem State.setMode_host (s : State) (m : Mode) : (s.setMode m).host = s.host := rfl

/-! #### setBps -/

@[simp] theorem State.setBps_cursor (s : State) (size : CodeSize) :
    (s.setBps size).cursor = s.cursor := rfl
@[simp] theorem State.setBps_params (s : State) (size : CodeSize) :
    (s.setBps size).params = s.params := rfl
@[simp] theorem State.setBps_mode (s : State) (size : CodeSize) :
    (s.setBps size).adpcm.mode = s.adpcm.mode := rfl
@[simp] theorem State.setBps_nch (s : State) (size : CodeSize) :
    (s.setBps size).adpcm.nch = s.adpcm.nch := rfl
@[simp] theorem State.setBps_rate (s : State) (size : CodeSize) :
    (s.setBps size).adpcm.rate = s.adpcm.rate := rfl
@[simp] theorem State.setBps_bps (s : State) (size : CodeSize) :
    (s.setBps size).adpcm.bps = size := rfl
@[simp] theorem State.setBps_blockCounter (s : State) (size : CodeSize) :
    (s.setBps size).adpcm.blockCounter = s.adpcm.blockCounter := rfl
@[simp] theorem State.setBps_left (s : State) (size : CodeSize) :
    (s.setBps size).adpcm.left = s.adpcm.left := rfl
@[simp] theorem State.setBps_right (s : State) (size : CodeSize) :
    (s.setBps size).adpcm.right = s.adpcm.right := rfl
@[simp] theorem State.setBps_host (s : State) (size : CodeSize) :
    (s.setBps size).host = s.host := rfl

/-! #### setBlockCounter -/

@[simp] theorem State.setBlockCounter_cursor (s : State) (n : Nat) :
    (s.setBlockCounter n).cursor = s.cursor := rfl
@[simp] theorem State.setBlockCounter_params (s : State) (n : Nat) :
    (s.setBlockCounter n).params = s.params := rfl
@[simp] theorem State.setBlockCounter_mode (s : State) (n : Nat) :
    (s.setBlockCounter n).adpcm.mode = s.adpcm.mode := rfl
@[simp] theorem State.setBlockCounter_nch (s : State) (n : Nat) :
    (s.setBlockCounter n).adpcm.nch = s.adpcm.nch := rfl
@[simp] theorem State.setBlockCounter_rate (s : State) (n : Nat) :
    (s.setBlockCounter n).adpcm.rate = s.adpcm.rate := rfl
@[simp] theorem State.setBlockCounter_bps (s : State) (n : Nat) :
    (s.setBlockCounter n).adpcm.bps = s.adpcm.bps := rfl
@[simp] theorem State.setBlockCounter_blockCounter (s : State) (n : Nat) :
    (s.setBlockCounter n).adpcm.blockCounter = n := rfl
@[simp] theorem State.setBlockCounter_left (s : State) (n : Nat) :
    (s.setBlockCounter n).adpcm.left = s.adpcm.left := rfl
@[simp] theorem State.setBlockCounter_right (s : State) (n : Nat) :
    (s.setBlockCounter n).adpcm.right = s.adpcm.right := rfl
@[simp] theorem State.setBlockCounter_host (s : State) (n : Nat) :
    (s.setBlockCounter n).host = s.host := rfl

/-! #### setChannel -/

@[simp] theorem State.setChannel_cursor (s : State) (c : Channel) (ch : ChannelState) :
    (s.setChannel c ch).cursor = s.cursor := by cases c <;> rfl
@[simp] theorem State.setChannel_params (s : State) (c : Channel) (ch : ChannelState) :
    (s.setChannel c ch).params = s.params := by cases c <;> rfl
@[simp] theorem State.setChannel_host (s : State) (c : Channel) (ch : ChannelState) :
    (s.setChannel c ch).host = s.host := by cases c <;> rfl
@[simp] theorem State.setChannel_mode (s : State) (c : Channel) (ch : ChannelState) :
    (s.setChannel c ch).adpcm.mode = s.adpcm.mode := by cases c <;> rfl
@[simp] theorem State.setChannel_nch (s : State) (c : Channel) (ch : ChannelState) :
    (s.setChannel c ch).adpcm.nch = s.adpcm.nch := by cases c <;> rfl
@[simp] theorem State.setChannel_rate (s : State) (c : Channel) (ch : ChannelState) :
    (s.setChannel c ch).adpcm.rate = s.adpcm.rate := by cases c <;> rfl
@[simp] theorem State.setChannel_bps (s : State) (c : Channel) (ch : ChannelState) :
    (s.setChannel c ch).adpcm.bps = s.adpcm.bps := by cases c <;> rfl
@[simp] theorem State.setChannel_blockCounter (s : State) (c : Channel) (ch : ChannelState) :
    (s.setChannel c ch).adpcm.blockCounter = s.adpcm.blockCounter := by cases c <;> rfl
@[simp] theorem State.setChannel_channel (s : State) (c : Channel) (ch : ChannelState) :
    (s.setChannel c ch).channel c = ch := by cases c <;> rfl
theorem State.setChannel_channel_ne (s : State) (c : Channel) (ch : ChannelState) (c' : Channel) (h : c' ≠ c) :
    (s.setChannel c ch).channel c' = s.channel c' := by
  cases c <;> cases c' <;> first | rfl | exact absurd rfl h

/-! #### setSample -/

@[simp] theorem State.setSample_cursor (s : State) (c : Channel) (v : Int) :
    (s.setSample c v).cursor = s.cursor := by cases c <;> rfl
@[simp] theorem State.setSample_params (s : State) (c : Channel) (v : Int) :
    (s.setSample c v).params = s.params := by cases c <;> rfl
@[simp] theorem State.setSample_host (s : State) (c : Channel) (v : Int) :
    (s.setSample c v).host = s.host := by cases c <;> rfl
@[simp] theorem State.setSample_mode (s : State) (c : Channel) (v : Int) :
    (s.setSample c v).adpcm.mode = s.adpcm.mode := by cases c <;> rfl
@[simp] theorem State.setSample_nch (s : State) (c : Channel) (v : Int) :
    (s.setSample c v).adpcm.nch = s.adpcm.nch := by cases c <;> rfl
@[simp] theorem State.setSample_rate (s : State) (c : Channel) (v : Int) :
    (s.setSample c v).adpcm.rate = s.adpcm.rate := by cases c <;> rfl
@[simp] theorem State.setSample_bps (s : State) (c : Channel) (v : Int) :
    (s.setSample c v).adpcm.bps = s.adpcm.bps := by cases c <;> rfl
@[simp] theorem State.setSample_blockCounter (s : State) (c : Channel) (v : Int) :
    (s.setSample c v).adpcm.blockCounter = s.adpcm.blockCounter := by cases c <;> rfl
@[simp] theorem State.setSample_channel (s : State) (c : Channel) (v : Int) :
    (s.setSample c v).channel c = { s.channel c with sample := some v } := by cases c <;> rfl
theorem State.setSample_channel_ne (s : State) (c : Channel) (v : Int) (c' : Channel) (h : c' ≠ c) :
    (s.setSample c v).channel c' = s.channel c' := by
  cases c <;> cases c' <;> first | rfl | exact absurd rfl h

/-! #### setStepIndex -/

@[simp] theorem State.setStepIndex_cursor (s : State) (c : Channel) (k : Nat) :
    (s.setStepIndex c k).cursor = s.cursor := by cases c <;> rfl
@[simp] theorem State.setStepIndex_params (s : State) (c : Channel) (k : Nat) :
    (s.setStepIndex c k).params = s.params := by cases c <;> rfl
@[simp] theorem State.setStepIndex_host (s : State) (c : Channel) (k : Nat) :
    (s.setStepIndex c k).host = s.host := by cases c <;> rfl
@[simp] theorem State.setStepIndex_mode (s : State) (c : Channel) (k : Nat) :
    (s.setStepIndex c k).adpcm.mode = s.adpcm.mode := by cases c <;> rfl
@[simp] theorem State.setStepIndex_nch (s : State) (c : Channel) (k : Nat) :
    (s.setStepIndex c k).adpcm.nch = s.adpcm.nch := by cases c <;> rfl
@[simp] theorem State.setStepIndex_rate (s : State) (c : Channel) (k : Nat) :
    (s.setStepIndex c k).adpcm.rate = s.adpcm.rate := by cases c <;> rfl
@[simp] theorem State.setStepIndex_bps (s : State) (c : Channel) (k : Nat) :
    (s.setStepIndex c k).adpcm.bps = s.adpcm.bps := by cases c <;> rfl
@[simp] theorem State.setStepIndex_blockCounter (s : State) (c : Channel) (k : Nat) :
    (s.setStepIndex c k).adpcm.blockCounter = s.adpcm.blockCounter := by cases c <;> rfl
@[simp] theorem State.setStepIndex_channel (s : State) (c : Channel) (k : Nat) :
    (s.setStepIndex c k).channel c = { s.channel c with stepIndex := some k } := by cases c <;> rfl
theorem State.setStepIndex_channel_ne (s : State) (c : Channel) (k : Nat) (c' : Channel) (h : c' ≠ c) :
    (s.setStepIndex c k).channel c' = s.channel c' := by
  cases c <;> cases c' <;> first | rfl | exact absurd rfl h

/-! #### issued -/

@[simp] theorem State.issued_cursor (s : State) (rest : List HostEvent) :
    (s.issued rest).cursor = s.cursor := rfl
@[simp] theorem State.issued_params (s : State) (rest : List HostEvent) :
    (s.issued rest).params = s.params := rfl
@[simp] theorem State.issued_adpcm (s : State) (rest : List HostEvent) :
    (s.issued rest).adpcm = s.adpcm := rfl
@[simp] theorem State.issued_program (s : State) (rest : List HostEvent) :
    (s.issued rest).host.program = rest := rfl
@[simp] theorem State.issued_responses (s : State) (rest : List HostEvent) :
    (s.issued rest).host.responses = s.host.responses := rfl

/-! #### resetBlock -/

@[simp] theorem State.resetBlock_cursor (s : State) : s.resetBlock.cursor = .reset := rfl
@[simp] theorem State.resetBlock_adpcm (s : State) : s.resetBlock.adpcm = .reset := rfl
@[simp] theorem State.resetBlock_params (s : State) : s.resetBlock.params = s.params := rfl
@[simp] theorem State.resetBlock_host (s : State) : s.resetBlock.host = s.host := rfl

/-! #### Reading a field of the session through an update of another part -/

@[simp] theorem State.channel_left (s : State) : s.channel .left = s.adpcm.left := rfl
@[simp] theorem State.channel_right (s : State) : s.channel .right = s.adpcm.right := rfl
@[simp] theorem State.respond_channel (s : State) (r : Response) (c : Channel) :
    (s.respond r).channel c = s.channel c := by cases c <;> rfl
@[simp] theorem State.answer_channel (s : State) (p : Payload) (c : Channel) :
    (s.answer p).channel c = s.channel c := by cases c <;> rfl
@[simp] theorem State.raise_channel (s : State) (why : Failure) (c : Channel) :
    (s.raise why).channel c = s.channel c := by cases c <;> rfl
@[simp] theorem State.moveTo_channel (s : State) (pos : Nat) (c : Channel) :
    (s.moveTo pos).channel c = s.channel c := by cases c <;> rfl
@[simp] theorem State.setMode_channel (s : State) (m : Mode) (c : Channel) :
    (s.setMode m).channel c = s.channel c := by cases c <;> rfl
@[simp] theorem State.setBps_channel (s : State) (size : CodeSize) (c : Channel) :
    (s.setBps size).channel c = s.channel c := by cases c <;> rfl
@[simp] theorem State.setBlockCounter_channel (s : State) (n : Nat) (c : Channel) :
    (s.setBlockCounter n).channel c = s.channel c := by cases c <;> rfl

/-- A position is recovered as `(pos div 8, pos mod 8)` (10_state.md R21). -/
@[simp] theorem Cursor.pos_divMod (src : Option Source) (p : Nat) :
    Cursor.pos { src := src, byteOff := p / 8, bitOff := p % 8 } = p := by
  simp only [Cursor.pos]; omega

/-- The position of a cursor that was moved (10_state.md R21). -/
theorem State.moveTo_pos (s : State) (pos : Nat) : (s.moveTo pos).cursor.pos = pos := by simp

end Sys2Proof.Machine
end

