-- ==== Sys2Proof/Laws/Ops.lean ====
section
/-!
SUPPORT. For each shared operation, once, what it can do. The proofs cite these instead of unfolding
the operation.
-/

namespace Sys2Proof.Machine

/-! ### Reading bits -/

/-- Everything a successful read does: it lies inside the source, touches no `Fault` entry, and
moves the cursor by its width and nothing else (40_cursor.md R120). -/
theorem readBits_ok {src : Source} {n v : Nat} {s t : State} (h : readBits src n s = .ok v t) :
    s.cursor.pos + n ≤ 8 * src.length ∧ touchesFault src s.cursor.pos n = false ∧
      v = streamValue src s.cursor.pos n ∧ t = s.moveTo (s.cursor.pos + n) := by
  simp only [readBits] at h
  split at h
  · cases h
  · split at h
    · cases h
    · cases h
      exact ⟨by omega, by simp_all, rfl, rfl⟩

/-- A read inside the source that touches no `Fault` entry succeeds (40_cursor.md R120). -/
theorem readBits_of_readable {src : Source} {n : Nat} {s : State}
    (hl : s.cursor.pos + n ≤ 8 * src.length) (hf : touchesFault src s.cursor.pos n = false) :
    readBits src n s = .ok (streamValue src s.cursor.pos n) (s.moveTo (s.cursor.pos + n)) := by
  simp only [readBits, hf, if_neg (Nat.not_lt.mpr hl), Bool.false_eq_true, if_false]

/-- A read fails with `EOS` exactly when fewer bits remain than it needs (40_cursor.md R124). -/
theorem readBits_eos_iff {src : Source} {n : Nat} {s : State} :
    readBits src n s = .eos ↔ 8 * src.length < s.cursor.pos + n := by
  simp only [readBits]
  split
  · simp_all
  · split <;> simp_all

/-- A read fails with `FAULT` exactly when it lies inside the source and touches a `Fault` entry
(40_cursor.md R125). -/
theorem readBits_fault_iff {src : Source} {n : Nat} {s : State} :
    readBits src n s = .fault ↔
      s.cursor.pos + n ≤ 8 * src.length ∧ touchesFault src s.cursor.pos n = true := by
  simp only [readBits]
  split
  · simp_all
  · split <;> simp_all

/-- A read depends on the state through the cursor alone. -/
theorem readBits_congr {src : Source} {n : Nat} {s t : State} (h : s.cursor.pos = t.cursor.pos) :
    (readBits src n s = .eos ↔ readBits src n t = .eos) ∧
      (readBits src n s = .fault ↔ readBits src n t = .fault) := by
  simp only [readBits_eos_iff, readBits_fault_iff, h, and_self]

/-- An `n`-bit value is below `2^n` (40_cursor.md R120). -/
theorem streamValue_lt (src : Source) (p n : Nat) : streamValue src p n < 2 ^ n := by
  induction n with
  | zero => simp [streamValue]
  | succ n ih =>
    have hb : (streamBit src (p + n)).toNat ≤ 1 := Bool.toNat_le _
    simp only [streamValue, Nat.pow_succ]
    omega

/-! ### Arithmetic -/

/-- `clamp` puts every value between its bounds (00_scope.md R8). -/
theorem clampTo_bounds {lo hi : Int} (h : lo ≤ hi) (v : Int) :
    lo ≤ clampTo v lo hi ∧ clampTo v lo hi ≤ hi := by
  simp only [clampTo]; split
  · omega
  · split <;> omega

/-- A step index stays within 0..88 (41_adpcm.md R155). -/
theorem nextIndex_le (p : Params) (size : CodeSize) (k m : Nat) : nextIndex p size k m ≤ 88 := by
  have h := clampTo_bounds (lo := 0) (hi := 88) (by decide) ((k : Int) + indexEntry p size m)
  simp only [nextIndex]; omega

/-- A clamped sample is an i16 (41_adpcm.md R154). -/
theorem clampSample_bounds (v : Int) : -32768 ≤ clampSample v ∧ clampSample v ≤ 32767 := by
  have h : narrow16 32768 = -32768 := by decide
  simp only [clampSample, h]; split
  · omega
  · split <;> omega

/-- `sext_N(v)` lies in the two's-complement range (00_scope.md R9). -/
theorem sext_bounds {n v : Nat} (hn : 0 < n) (h : v < 2 ^ n) :
    -(2 ^ (n - 1) : Int) ≤ sext n v ∧ sext n v < 2 ^ (n - 1) := by
  obtain ⟨m, rfl⟩ : ∃ m, n = m + 1 := ⟨n - 1, by omega⟩
  simp only [sext, Nat.add_sub_cancel] at *
  have hp : (2 : Nat) ^ (m + 1) = 2 * 2 ^ m := by rw [Nat.pow_succ, Nat.mul_comm]
  have hpi : (2 : Int) ^ (m + 1) = 2 * 2 ^ m := by rw [pow_succ, mul_comm]
  have hc : ((2 ^ m : Nat) : Int) = (2 : Int) ^ m := by push_cast; rfl
  by_cases hb : v.testBit m
  · have := Nat.ge_two_pow_of_testBit hb
    simp only [hb, if_true, hpi]; omega
  · have : v < 2 ^ m := by
      by_contra hge
      refine hb ?_
      rw [Nat.testBit_eq_decide_div_mod_eq, decide_eq_true_eq]
      have h1 : v / 2 ^ m < 2 := (Nat.div_lt_iff_lt_mul (Nat.two_pow_pos m)).mpr (by omega)
      have h2 : 1 ≤ v / 2 ^ m := (Nat.le_div_iff_mul_le (Nat.two_pow_pos m)).mpr (by omega)
      omega
    simp only [hb, Bool.false_eq_true, if_false]; omega

/-- The two's-complement reading of a 16-bit field is core Lean's (00_scope.md R9). -/
theorem sext_sixteen (v : BitVec 16) : sext 16 v.toNat = v.toInt := by
  simp only [sext, BitVec.toInt_eq_msb_cond, BitVec.msb_eq_getLsbD_last, BitVec.getLsbD]
  norm_num

/-! ### Stream reads of a pull -/

/-- How a stream read ends (41_adpcm.md R145, R158, R159). -/
theorem streamRead_cases (src : Source) (n : Nat) (s : State) (k : Nat → State → State) :
    (8 * src.length < s.cursor.pos + n ∧
      streamRead src n s k = .over ((s.setMode .ended).raise .endOfStream)) ∨
    (s.cursor.pos + n ≤ 8 * src.length ∧ touchesFault src s.cursor.pos n = true ∧
      streamRead src n s k = .over ((s.setMode .faulted).raise .sourceFault)) ∨
    (s.cursor.pos + n ≤ 8 * src.length ∧ touchesFault src s.cursor.pos n = false ∧
      streamRead src n s k =
        .going (k (streamValue src s.cursor.pos n) (s.moveTo (s.cursor.pos + n)))) := by
  rcases h : readBits src n s with ⟨v, t⟩ | _ | _
  · obtain ⟨h1, h2, rfl, rfl⟩ := readBits_ok h
    exact .inr (.inr ⟨h1, h2, by simp only [streamRead, h]⟩)
  · exact .inl ⟨readBits_eos_iff.mp h, by simp only [streamRead, h]⟩
  · obtain ⟨h1, h2⟩ := readBits_fault_iff.mp h
    exact .inr (.inl ⟨h1, h2, by simp only [streamRead, h]⟩)

@[simp] theorem Pulling.andThen_going (s : State) (k : State → Pulling) :
    (Pulling.going s).andThen k = k s := rfl

@[simp] theorem Pulling.andThen_over (s : State) (k : State → Pulling) :
    (Pulling.over s).andThen k = .over s := rfl

/-! ### Codes -/

/-- The sign and the magnitude make up the code (30_encoding.md R90). -/
theorem codeData_split (size : CodeSize) {v : Nat} (h : v < 2 ^ size.bits) :
    codeData size (codeSign size v) (codeMagnitude size v) = v := by
  cases size <;> simp only [CodeSize.bits] at h <;> interval_cases v <;> decide

/-- A magnitude is below `sign_mask` (30_encoding.md R90, 41_adpcm.md R142). -/
theorem codeMagnitude_lt (size : CodeSize) {v : Nat} (h : v < 2 ^ size.bits) :
    codeMagnitude size v < size.signMask := by
  cases size <;> simp only [CodeSize.bits] at h <;> interval_cases v <;> decide

/-- Running a code that was decoded from the stream is applying its sign and magnitude: the meanings
of CODE2 to CODE5 and the pull share `applyCode` (41_adpcm.md R148 to R152). -/
theorem exec_of_decoded_code {size : CodeSize} {c : Channel} {v : Nat} {i : Instr}
    (h : decodeElement (.code size c) v = .ok i) (s : State) :
    exec i s = .next (applyCode c size (codeSign size v) (codeMagnitude size v) s) := by
  simp only [decodeElement] at h
  split at h
  · rename_i hw
    have hm := codeMagnitude_lt size hw
    cases size <;> cases h <;>
      simp only [exec, execCode2, execCode3, execCode4, execCode5, BitVec.toNat_ofNat] <;>
      rw [Nat.mod_eq_of_lt (by simpa [CodeSize.signMask, CodeSize.bits] using hm)]
  · cases h

/-- `applyCode` writes one channel: what it leaves alone. -/
@[simp] theorem applyCode_cursor (c : Channel) (size : CodeSize) (sign : Bool) (m : Nat)
    (s : State) : (applyCode c size sign m s).cursor = s.cursor := by simp [applyCode]
@[simp] theorem applyCode_params (c : Channel) (size : CodeSize) (sign : Bool) (m : Nat)
    (s : State) : (applyCode c size sign m s).params = s.params := by simp [applyCode]
@[simp] theorem applyCode_host (c : Channel) (size : CodeSize) (sign : Bool) (m : Nat)
    (s : State) : (applyCode c size sign m s).host = s.host := by simp [applyCode]
@[simp] theorem applyCode_mode (c : Channel) (size : CodeSize) (sign : Bool) (m : Nat)
    (s : State) : (applyCode c size sign m s).adpcm.mode = s.adpcm.mode := by simp [applyCode]
@[simp] theorem applyCode_nch (c : Channel) (size : CodeSize) (sign : Bool) (m : Nat)
    (s : State) : (applyCode c size sign m s).adpcm.nch = s.adpcm.nch := by simp [applyCode]
@[simp] theorem applyCode_rate (c : Channel) (size : CodeSize) (sign : Bool) (m : Nat)
    (s : State) : (applyCode c size sign m s).adpcm.rate = s.adpcm.rate := by simp [applyCode]
@[simp] theorem applyCode_bps (c : Channel) (size : CodeSize) (sign : Bool) (m : Nat)
    (s : State) : (applyCode c size sign m s).adpcm.bps = s.adpcm.bps := by simp [applyCode]
@[simp] theorem applyCode_blockCounter (c : Channel) (size : CodeSize) (sign : Bool) (m : Nat)
    (s : State) : (applyCode c size sign m s).adpcm.blockCounter = s.adpcm.blockCounter := by
  simp [applyCode]

/-- The channel a code was for holds values in range (41_adpcm.md R154, R155). -/
theorem applyCode_channel (c : Channel) (size : CodeSize) (sign : Bool) (m : Nat) (s : State) :
    ∃ v k, (applyCode c size sign m s).channel c = { sample := some v, stepIndex := some k } ∧
      -32768 ≤ v ∧ v ≤ 32767 ∧ k ≤ 88 :=
  ⟨_, _, State.setChannel_channel _ _ _,
    (clampSample_bounds _).1, (clampSample_bounds _).2, nextIndex_le _ _ _ _⟩

/-- A code for one channel leaves the other alone. -/
theorem applyCode_channel_ne (c c' : Channel) (h : c' ≠ c) (size : CodeSize) (sign : Bool)
    (m : Nat) (s : State) : (applyCode c size sign m s).channel c' = s.channel c' :=
  State.setChannel_channel_ne _ _ _ _ h

/-! ### Packing -/

/-- What packing pixels can answer (42_image.md R207, R208). -/
theorem packPixels_cases (maxBytes w h : Nat) (enough : Bool) (pixel : Nat → Buffer) :
    (enough = false ∧ packPixels maxBytes w h enough pixel = .failed .sizeMismatch) ∨
    (enough = true ∧ 4 * w * h > maxBytes ∧ packPixels maxBytes w h enough pixel = .tooLarge) ∨
    (enough = true ∧ 4 * w * h ≤ maxBytes ∧
      packPixels maxBytes w h enough pixel = .out ((List.range (w * h)).flatMap pixel)) := by
  cases enough
  · exact .inl ⟨rfl, rfl⟩
  · by_cases hm : 4 * w * h > maxBytes
    · exact .inr (.inl ⟨rfl, hm, by simp [packPixels, hm]⟩)
    · exact .inr (.inr ⟨rfl, by omega, by simp [packPixels, hm]⟩)

/-- A buffer of four-byte pixels, pixel by pixel (30_encoding.md R97). -/
theorem flatMap_four_length (n : Nat) (pixel : Nat → Buffer) (h4 : ∀ i, (pixel i).length = 4) :
    ((List.range n).flatMap pixel).length = 4 * n := by
  induction n with
  | zero => rfl
  | succ n ih => rw [List.range_succ, List.flatMap_append, List.length_append, ih]; simp [h4]; omega

/-- Byte `4 * i + j` of such a buffer is byte `j` of pixel `i` (30_encoding.md R97). -/
theorem flatMap_four_getElem (n : Nat) (pixel : Nat → Buffer) (h4 : ∀ i, (pixel i).length = 4)
    {i j : Nat} (hi : i < n) (hj : j < 4) :
    ((List.range n).flatMap pixel)[4 * i + j]? = (pixel i)[j]? := by
  induction n with
  | zero => omega
  | succ n ih =>
    rw [List.range_succ, List.flatMap_append]
    have hl := flatMap_four_length n pixel h4
    by_cases h : i < n
    · rw [List.getElem?_append_left (by omega)]; exact ih h
    · obtain rfl : i = n := by omega
      rw [List.getElem?_append_right (by omega)]
      simp [hl]

/-- A byte inside a buffer is the buffer's own (00_scope.md R10). -/
theorem bufferByte_of_lt {d : Buffer} {j : Nat} (h : j < d.length) :
    d[j]? = some (bufferByte d j) := by
  simp [bufferByte, h]

/-- How an image command ends (42_image.md R190). -/
theorem finishImage_next {s t : State} {width height : Word} {p : Packed}
    (h : s.finishImage width height p = .next t) : ∃ r, t = s.respond r := by
  cases p <;> cases h
  · exact ⟨_, rfl⟩
  · exact ⟨_, rfl⟩

/-! ### The services -/

/-- An answer known as data is the service's answer (60_exceptions.md R248). -/
theorem inflate_of_known {s : State} {z : Buffer} {a : Option Buffer}
    (h : knownAnswer z s.params.inflateAnswers = some a) : s.inflate z = a := by
  simp only [State.inflate, h]

/-- An answer known as data is the service's answer (60_exceptions.md R248). -/
theorem jpegDecode_of_known {s : State} {z : Buffer} {a : Option JpegImage}
    (h : knownAnswer z s.params.jpegAnswers = some a) : s.jpegDecode z = a := by
  simp only [State.jpegDecode, h]

end Sys2Proof.Machine
end

