-- ==== Sys2Proof/Laws/PerInstr.lean ====
section
/-!
SUPPORT. A family of one lemma per instruction: its encoding lies in its own row of
spec/opcode_table.json.
-/

namespace Sys2Proof.Laws.RowPattern

/-- The `mask` and the `match` of a command's row in spec/opcode_table.json; a stream row has none. -/
def tableRow : Instr → Option (Word × Word)
  | .curBind _ => some (0xFFFFFFFF, 0x01000000)
  | .curRdu _ => some (0xFFFFFFC0, 0x02000000)
  | .curRds _ => some (0xFFFFFFC0, 0x03000000)
  | .adpcmInit _ _ _ => some (0xFFFFFFFE, 0x10000000)
  | .adpcmPull => some (0xFFFFFFFF, 0x11000000)
  | .imgAlpha _ _ => some (0xFFFFFFFF, 0x20000000)
  | .imgLosslessV1Rgb32 _ _ _ _ => some (0xFF00FFFF, 0x21000105)
  | .imgLosslessV2Rgb32 _ _ _ _ => some (0xFF00FFFF, 0x21000205)
  | .imgLosslessV1Cmap8 _ _ _ _ => some (0xFF00FFFF, 0x21000103)
  | .imgLosslessV2Cmap8 _ _ _ _ => some (0xFF00FFFF, 0x21000203)
  | .imgLosslessRgb15 _ _ _ _ _ => some (0xFF0000FF, 0x21000004)
  | .imgLosslessOtherRgb32 _ _ _ _ _ => some (0xFF0000FF, 0x21000005)
  | .imgLosslessOtherCmap8 _ _ _ _ _ => some (0xFF0000FF, 0x21000003)
  | .imgLosslessBadfmt _ _ _ _ _ _ => some (0xFF000000, 0x21000000)
  | .sizeCode _ => none
  | .header _ _ _ => none
  | .code2 _ _ _ => none
  | .code3 _ _ _ => none
  | .code4 _ _ _ => none
  | .code5 _ _ _ => none

/-- The encoding lies in the instruction's row: a command word matches the row's pattern, an
element's bits fit in its width (30_encoding.md R81 to R91). -/
def Statement (i : Instr) : Prop :=
  match encode i, tableRow i with
  | .command w _, some (mask, value) => w &&& mask = value
  | .element due v, none => v < 2 ^ due.width
  | _, _ => False

/-- An IMG.LOSSLESS word as its four bytes. -/
theorem lossless_word (ncol ver fmt : Byte) :
    BitVec.ofNat 32 (0x21000000 + ncol.toNat * 0x10000 + ver.toNat * 0x100 + fmt.toNat) =
      (0x21#8 ++ ncol ++ ver ++ fmt : Word) := by
  have h1 := ncol.isLt
  have h2 := ver.isLt
  have h3 := fmt.isLt
  apply BitVec.eq_of_toNat_eq
  rw [BitVec.toNat_append, BitVec.toNat_append, BitVec.toNat_append,
    ← Nat.shiftLeft_add_eq_or_of_lt h1, ← Nat.shiftLeft_add_eq_or_of_lt h2,
    ← Nat.shiftLeft_add_eq_or_of_lt h3]
  simp only [Nat.shiftLeft_eq, BitVec.toNat_ofNat]
  omega

/-- An IMG.LOSSLESS word masked to its opcode and the row's selection fields. -/
theorem lossless_masked (ncol ver fmt : Byte) (k l : Byte) :
    BitVec.ofNat 32 (0x21000000 + ncol.toNat * 0x10000 + ver.toNat * 0x100 + fmt.toNat) &&&
        (0xFF#8 ++ 0#8 ++ k ++ l : Word) =
      (0x21#8 ++ 0#8 ++ (ver &&& k) ++ (fmt &&& l) : Word) := by
  rw [lossless_word, BitVec.and_append, BitVec.and_append, BitVec.and_append]
  simp

theorem curBind (src : Source) : Statement (.curBind src) := by
  simp only [Statement, encode, tableRow]; decide

theorem curRdu (n : BitVec 6) : Statement (.curRdu n) := by
  simp only [Statement, encode, tableRow]; revert n; decide

theorem curRds (n : BitVec 6) : Statement (.curRds n) := by
  simp only [Statement, encode, tableRow]; revert n; decide

theorem adpcmInit (nch : ChannelCount) (src : Source) (rate : Word) :
    Statement (.adpcmInit nch src rate) := by
  cases nch <;> (simp only [Statement, encode, tableRow]; decide)

theorem adpcmPull : Statement .adpcmPull := by
  simp only [Statement, encode, tableRow]; decide

theorem imgAlpha (jpeg alphaZ : Buffer) : Statement (.imgAlpha jpeg alphaZ) := by
  simp only [Statement, encode, tableRow]; decide

theorem imgLosslessV1Rgb32 (ncol : Byte) (w h : Word) (dataZ : Buffer) :
    Statement (.imgLosslessV1Rgb32 ncol w h dataZ) :=
  lossless_masked ncol 1 5 0xFF 0xFF

theorem imgLosslessV2Rgb32 (ncol : Byte) (w h : Word) (dataZ : Buffer) :
    Statement (.imgLosslessV2Rgb32 ncol w h dataZ) :=
  lossless_masked ncol 2 5 0xFF 0xFF

theorem imgLosslessV1Cmap8 (ncol : Byte) (w h : Word) (dataZ : Buffer) :
    Statement (.imgLosslessV1Cmap8 ncol w h dataZ) :=
  lossless_masked ncol 1 3 0xFF 0xFF

theorem imgLosslessV2Cmap8 (ncol : Byte) (w h : Word) (dataZ : Buffer) :
    Statement (.imgLosslessV2Cmap8 ncol w h dataZ) :=
  lossless_masked ncol 2 3 0xFF 0xFF

theorem imgLosslessRgb15 (ncol ver : Byte) (w h : Word) (dataZ : Buffer) :
    Statement (.imgLosslessRgb15 ncol ver w h dataZ) :=
  (lossless_masked ncol ver 4 0 0xFF).trans (by simp)

theorem imgLosslessOtherRgb32 (ncol ver : Byte) (w h : Word) (dataZ : Buffer) :
    Statement (.imgLosslessOtherRgb32 ncol ver w h dataZ) :=
  (lossless_masked ncol ver 5 0 0xFF).trans (by simp)

theorem imgLosslessOtherCmap8 (ncol ver : Byte) (w h : Word) (dataZ : Buffer) :
    Statement (.imgLosslessOtherCmap8 ncol ver w h dataZ) :=
  (lossless_masked ncol ver 3 0 0xFF).trans (by simp)

theorem imgLosslessBadfmt (ncol ver fmt : Byte) (w h : Word) (dataZ : Buffer) :
    Statement (.imgLosslessBadfmt ncol ver fmt w h dataZ) :=
  (lossless_masked ncol ver fmt 0 0).trans (by simp)

theorem sizeCode (cc : BitVec 2) : Statement (.sizeCode cc) := cc.isLt

theorem header (c : Channel) (smp : BitVec 16) (k : BitVec 6) : Statement (.header c smp k) := by
  have h1 := smp.isLt
  have h2 := k.isLt
  simp only [Statement, encode, tableRow, Due.width]; omega

theorem code2 (c : Channel) (sign : Bool) (m : BitVec 1) : Statement (.code2 c sign m) := by
  have h := m.isLt
  cases sign <;>
    simp [Statement, encode, tableRow, Due.width, codeData, CodeSize.signMask, CodeSize.bits] <;>
    omega

theorem code3 (c : Channel) (sign : Bool) (m : BitVec 2) : Statement (.code3 c sign m) := by
  have h := m.isLt
  cases sign <;>
    simp [Statement, encode, tableRow, Due.width, codeData, CodeSize.signMask, CodeSize.bits] <;>
    omega

theorem code4 (c : Channel) (sign : Bool) (m : BitVec 3) : Statement (.code4 c sign m) := by
  have h := m.isLt
  cases sign <;>
    simp [Statement, encode, tableRow, Due.width, codeData, CodeSize.signMask, CodeSize.bits] <;>
    omega

theorem code5 (c : Channel) (sign : Bool) (m : BitVec 4) : Statement (.code5 c sign m) := by
  have h := m.isLt
  cases sign <;>
    simp [Statement, encode, tableRow, Due.width, codeData, CodeSize.signMask, CodeSize.bits] <;>
    omega

end Sys2Proof.Laws.RowPattern
end

