-- ==== Sys2Proof/Laws/Reads.lean ====
section
/-!
SUPPORT. The read primitive against what the statements say of a read: the bits of the stream, the
entries touched, and when it succeeds.
-/

namespace Sys2Proof.Machine

/-- The `Fault` test of the read primitive finds the `Fault` entries that a read touches
(20_memory.md R58, 40_cursor.md R120). -/
theorem touchesFault_iff {src : Source} {p n : Nat} (hn : 1 ≤ n) :
    touchesFault src p n = true ↔ FaultAmong src p n := by
  simp only [touchesFault, List.any_eq_true, List.mem_range', srcRead, FaultAmong]
  constructor
  · rintro ⟨j, ⟨i, hi, rfl⟩, hj⟩
    have hj := of_decide_eq_true hj
    exact ⟨p / 8 + 1 * i, (List.getElem?_eq_some_iff.mp hj).1, by omega, by omega, hj⟩
  · rintro ⟨j, hj, h1, h2, hf⟩
    exact ⟨j, ⟨j - p / 8, by omega, by omega⟩, decide_eq_true hf⟩

/-- A read of the bits that can be read succeeds (40_cursor.md R120). -/
theorem readBits_of_Readable {src : Source} {n : Nat} {s : State} (hn : 1 ≤ n)
    (h : Readable src s.cursor.pos n) :
    readBits src n s = .ok (streamValue src s.cursor.pos n) (s.moveTo (s.cursor.pos + n)) :=
  readBits_of_readable h.1 (by
    rw [Bool.eq_false_iff]
    exact fun hf => h.2 ((touchesFault_iff hn).mp hf))

/-- The part of a readable range is readable. -/
theorem Readable.sub {src : Source} {p n q m : Nat} (h : Readable src p n) (hm : 1 ≤ m) (hp : p ≤ q)
    (hq : q + m ≤ p + n) : Readable src q m := by
  refine ⟨by have := h.1; omega, fun ⟨j, hj, h1, h2, hf⟩ => h.2 ⟨j, hj, by omega, by omega, hf⟩⟩

/-- A readable bit is there. -/
theorem bitAt_of_Readable {src : Source} {p n t : Nat} (h : Readable src p n) (ht : t < n) :
    bitAt src (p + t) = some (streamBit src (p + t)) := by
  have hlt : (p + t) / 8 < src.length := by have := h.1; omega
  have hne : src[(p + t) / 8]? ≠ some .fault := fun hf =>
    h.2 ⟨(p + t) / 8, hlt, by omega, by omega, hf⟩
  simp only [bitAt, streamBit, srcRead]
  rcases he : src[(p + t) / 8]? with _ | ⟨b⟩ | _
  · rw [List.getElem?_eq_none_iff] at he; omega
  · rfl
  · exact absurd he hne

/-- The value of the bits from `p` on has the first one read most significant (20_memory.md R53). -/
theorem streamValue_testBit (src : Source) (p n t : Nat) (ht : t < n) :
    (streamValue src p n).testBit (n - 1 - t) = streamBit src (p + t) := by
  induction n with
  | zero => omega
  | succ n ih =>
    simp only [streamValue]
    by_cases h : t = n
    · subst h
      have : t + 1 - 1 - t = 0 := by omega
      rw [this, Nat.testBit_zero]
      cases streamBit src (p + t) <;> simp
    · have : n + 1 - 1 - t = (n - 1 - t) + 1 := by omega
      rw [this, Nat.testBit_add_one, ← ih (by omega)]
      congr 1
      have := Bool.toNat_le (streamBit src (p + n))
      omega

/-- What the read primitive reads are the stream bits (20_memory.md R52, R53). -/
theorem streamBits_streamValue {src : Source} {p n : Nat} (h : Readable src p n) :
    StreamBits src p n (streamValue src p n) :=
  ⟨streamValue_lt src p n, fun t ht => by
    rw [bitAt_of_Readable h ht, streamValue_testBit src p n t ht]⟩

/-- The stream bits are one number only. -/
theorem StreamBits.unique {src : Source} {p n v w : Nat} (hv : StreamBits src p n v)
    (hw : StreamBits src p n w) : v = w := by
  refine Nat.eq_of_testBit_eq fun i => ?_
  by_cases hi : i < n
  · have h1 := hv.2 (n - 1 - i) (by omega)
    have h2 := hw.2 (n - 1 - i) (by omega)
    rw [h1, show n - 1 - (n - 1 - i) = i by omega] at h2
    exact Option.some.inj h2
  · rw [Nat.testBit_lt_two_pow (Nat.lt_of_lt_of_le hv.1 (Nat.pow_le_pow_right (by omega) (by omega))),
      Nat.testBit_lt_two_pow (Nat.lt_of_lt_of_le hw.1 (Nat.pow_le_pow_right (by omega) (by omega)))]

/-- Where the stream bits are known, the read succeeds with them. -/
theorem StreamBits.readable {src : Source} {p n v : Nat} (hn : 1 ≤ n) (h : StreamBits src p n v) :
    Readable src p n := by
  have hb : ∀ t < n, ∃ b, src[(p + t) / 8]? = some (.byte b) := fun t ht => by
    have := h.2 t ht
    simp only [bitAt] at this
    split at this
    · exact ⟨_, by assumption⟩
    · cases this
  constructor
  · obtain ⟨b, hb⟩ := hb (n - 1) (by omega)
    have := (List.getElem?_eq_some_iff.mp hb).1
    omega
  · rintro ⟨j, hj, h1, h2, hf⟩
    obtain ⟨b, hb⟩ := hb (if j = p / 8 then 0 else 8 * j - p) (by split <;> omega)
    have he : (p + (if j = p / 8 then 0 else 8 * j - p)) / 8 = j := by split <;> omega
    rw [he, hf] at hb; cases hb

/-- A failed read, as the read primitive reports it (40_cursor.md R124, R125). -/
theorem streamRead_of_fails {src : Source} {n : Nat} {s : State} {k : Nat → State → State}
    {mode : Mode} {why : Failure} (hn : 1 ≤ n) (h : ReadFails src s.cursor.pos n mode why) :
    streamRead src n s k = .over ((s.setMode mode).raise why) := by
  rcases h with ⟨h, rfl, rfl⟩ | ⟨h, hf, rfl, rfl⟩
  · simp only [streamRead, readBits_eos_iff.mpr h]
  · simp only [streamRead, readBits_fault_iff.mpr ⟨h, (touchesFault_iff hn).mpr hf⟩]

/-- A stream read of the bits that can be read goes on with them. -/
theorem streamRead_of_Readable {src : Source} {n : Nat} {s : State} {k : Nat → State → State}
    (hn : 1 ≤ n) (h : Readable src s.cursor.pos n) :
    streamRead src n s k =
      .going (k (streamValue src s.cursor.pos n) (s.moveTo (s.cursor.pos + n))) := by
  simp only [streamRead, readBits_of_Readable hn h]

end Sys2Proof.Machine
end

