-- ==== Sys2Proof/Laws/Pull.lean ====
section
/-!
SUPPORT. What a pull can do, said once: how its reads progress, and the two ways it ends.
-/

namespace Sys2Proof.Machine

/-- What the elements read so far leave of the state: everything but the position and the channels;
the position stays inside the source, the channels in their ranges. -/
structure Progress (src : Source) (s u : State) : Prop where
  source : u.cursor.src = s.cursor.src
  mode : u.adpcm.mode = s.adpcm.mode
  nch : u.adpcm.nch = s.adpcm.nch
  rate : u.adpcm.rate = s.adpcm.rate
  bps : u.adpcm.bps = s.adpcm.bps
  counter : u.adpcm.blockCounter = s.adpcm.blockCounter
  params : u.params = s.params
  host : u.host = s.host
  position : u.cursor = s.cursor ∨ ∃ p, p ≤ 8 * src.length ∧
    u.cursor = { src := s.cursor.src, byteOff := p / 8, bitOff := p % 8 }
  inRange : ∀ c, ChannelInRange (s.channel c) → ChannelInRange (u.channel c)
  present : ∀ c, ChannelPresent (s.channel c) → ChannelPresent (u.channel c)

theorem Progress.refl (src : Source) (s : State) : Progress src s s :=
  ⟨rfl, rfl, rfl, rfl, rfl, rfl, rfl, rfl, .inl rfl, fun _ h => h, fun _ h => h⟩

theorem Progress.trans {src : Source} {s t u : State} (h : Progress src s t)
    (g : Progress src t u) : Progress src s u where
  source := g.source.trans h.source
  mode := g.mode.trans h.mode
  nch := g.nch.trans h.nch
  rate := g.rate.trans h.rate
  bps := g.bps.trans h.bps
  counter := g.counter.trans h.counter
  params := g.params.trans h.params
  host := g.host.trans h.host
  position := by
    rcases g.position with e | ⟨p, hp, e⟩
    · rw [e]; exact h.position
    · rw [h.source] at e; exact .inr ⟨p, hp, e⟩
  inRange c hc := g.inRange c (h.inRange c hc)
  present c hc := g.present c (h.present c hc)

/-- A channel whose fields both hold a value in range. -/
def ChannelSet (ch : ChannelState) : Prop :=
  ∃ x k, ch = { sample := some x, stepIndex := some k } ∧ -32768 ≤ x ∧ x ≤ 32767 ∧ k ≤ 88

theorem ChannelSet.inRange {ch : ChannelState} (h : ChannelSet ch) : ChannelInRange ch := by
  obtain ⟨x, k, rfl, h1, h2, h3⟩ := h
  exact ⟨fun v hv => by cases hv; exact ⟨h1, h2⟩, fun j hj => by cases hj; exact h3⟩

theorem ChannelSet.present {ch : ChannelState} (h : ChannelSet ch) : ChannelPresent ch := by
  obtain ⟨x, k, rfl, _⟩ := h
  exact ⟨by simp, by simp⟩

/-- Moving the cursor inside the source is progress. -/
theorem progress_moveTo {src : Source} (s : State) {p : Nat} (h : p ≤ 8 * src.length) :
    Progress src s (s.moveTo p) where
  source := rfl
  mode := rfl
  nch := rfl
  rate := rfl
  bps := rfl
  counter := rfl
  params := rfl
  host := rfl
  position := .inr ⟨p, h, rfl⟩
  inRange c hc := by simpa using hc
  present c hc := by simpa using hc

/-- Writing one channel is progress, if it keeps the channel in range and present. -/
theorem progress_setChannel {src : Source} (s : State) (c : Channel) (ch : ChannelState)
    (hr : ChannelInRange (s.channel c) → ChannelInRange ch)
    (hp : ChannelPresent (s.channel c) → ChannelPresent ch) :
    Progress src s (s.setChannel c ch) where
  source := by simp
  mode := by simp
  nch := by simp
  rate := by simp
  bps := by simp
  counter := by simp
  params := by simp
  host := by simp
  position := .inl (by simp)
  inRange c' hc := by
    by_cases h : c' = c
    · subst h; simpa using hr hc
    · rwa [State.setChannel_channel_ne _ _ _ _ h]
  present c' hc := by
    by_cases h : c' = c
    · subst h; simpa using hp hc
    · rwa [State.setChannel_channel_ne _ _ _ _ h]

/-- A code sets its channel. -/
theorem applyCode_channelSet (c : Channel) (size : CodeSize) (sign : Bool) (m : Nat) (s : State) :
    ChannelSet ((applyCode c size sign m s).channel c) :=
  applyCode_channel c size sign m s

theorem progress_applyCode {src : Source} (c : Channel) (size : CodeSize) (sign : Bool) (m : Nat)
    (s : State) : Progress src s (applyCode c size sign m s) := by
  have h := applyCode_channelSet c size sign m s
  rw [applyCode, State.setChannel_channel] at h
  exact progress_setChannel s c _ (fun _ => h.inRange) (fun _ => h.present)

/-- A header's sample is an i16 (41_adpcm.md R146). -/
theorem header_sample_range (smp : BitVec 16) :
    -32768 ≤ sext 16 smp.toNat ∧ sext 16 smp.toNat ≤ 32767 := by
  have h := sext_bounds (n := 16) (by omega) smp.isLt
  norm_num at h; omega

theorem progress_headerSample {src : Source} (c : Channel) (smp : BitVec 16) (s : State) :
    Progress src s (applyHeaderSample c smp s) :=
  progress_setChannel s c _
    (fun h => ⟨fun v hv => by cases hv; exact header_sample_range smp, h.2⟩)
    (fun h => ⟨by simp, h.2⟩)

theorem progress_headerIndex {src : Source} (c : Channel) (k : BitVec 6) (s : State) :
    Progress src s (applyHeaderIndex c k s) :=
  progress_setChannel s c _
    (fun h => ⟨h.1, fun v hv => by cases hv; have := k.isLt; omega⟩)
    (fun h => ⟨h.1, by simp⟩)

/-- How a failed read ends a pull (41_adpcm.md R158, R159). -/
def EndedBy (mode : Mode) (why : Failure) : Prop :=
  (mode = .ended ∧ why = .endOfStream) ∨ (mode = .faulted ∧ why = .sourceFault)

/-- What part of a pull can do: it progressed and `good` holds, or a read failed. -/
def PartOfPull (src : Source) (s : State) (good : State → Prop) (p : Pulling) : Prop :=
  (∃ u, p = .going u ∧ Progress src s u ∧ good u) ∨
  (∃ u mode why, p = .over ((u.setMode mode).raise why) ∧ Progress src s u ∧ EndedBy mode why)

theorem partOfPull_streamRead (src : Source) (n : Nat) (s : State) (k : Nat → State → State)
    (good : State → Prop) (hk : ∀ v t, Progress src t (k v t)) (hg : ∀ v t, good (k v t)) :
    PartOfPull src s good (streamRead src n s k) := by
  rcases streamRead_cases src n s k with ⟨_, h⟩ | ⟨_, _, h⟩ | ⟨hl, _, h⟩
  · exact .inr ⟨s, _, _, h, .refl _ _, .inl ⟨rfl, rfl⟩⟩
  · exact .inr ⟨s, _, _, h, .refl _ _, .inr ⟨rfl, rfl⟩⟩
  · exact .inl ⟨_, h, (progress_moveTo s hl).trans (hk _ _), hg _ _⟩

/-- One part after another. -/
theorem PartOfPull.andThen {src : Source} {s : State} {good good' : State → Prop} {p : Pulling}
    {k : State → Pulling} (h : PartOfPull src s good p)
    (hk : ∀ u, good u → PartOfPull src u good' (k u)) : PartOfPull src s good' (p.andThen k) := by
  rcases h with ⟨u, rfl, hp, hg⟩ | ⟨u, mode, why, rfl, hp, he⟩
  · rcases hk u hg with ⟨t, h, hp', hg'⟩ | ⟨t, mode, why, h, hp', he⟩
    · exact .inl ⟨t, h, hp.trans hp', hg'⟩
    · exact .inr ⟨t, mode, why, h, hp.trans hp', he⟩
  · exact .inr ⟨u, mode, why, rfl, hp, he⟩

theorem partOfPull_readHeader (src : Source) (c : Channel) (s : State) :
    PartOfPull src s (fun u => ChannelSet (u.channel c)) (readHeader src c s) := by
  refine (partOfPull_streamRead src 16 s _
    (fun u => ∃ x, (u.channel c).sample = some x ∧ -32768 ≤ x ∧ x ≤ 32767)
    (fun v t => progress_headerSample c _ t) fun v t => ?_).andThen fun u ⟨x, hx, h1, h2⟩ => ?_
  · exact ⟨sext 16 (BitVec.ofNat 16 v).toNat,
      by simp only [applyHeaderSample, State.setSample_channel], header_sample_range _⟩
  · rcases streamRead_cases src 6 u fun v t => applyHeaderIndex c (BitVec.ofNat 6 v) t with
      ⟨_, h⟩ | ⟨_, _, h⟩ | ⟨hl, _, h⟩
    · exact .inr ⟨u, _, _, h, .refl _ _, .inl ⟨rfl, rfl⟩⟩
    · exact .inr ⟨u, _, _, h, .refl _ _, .inr ⟨rfl, rfl⟩⟩
    · have hk := (BitVec.ofNat 6 (streamValue src u.cursor.pos 6)).isLt
      exact .inl ⟨_, h, (progress_moveTo u hl).trans (progress_headerIndex c _ _), x,
        (BitVec.ofNat 6 (streamValue src u.cursor.pos 6)).toNat,
        by simp only [applyHeaderIndex, State.setStepIndex_channel, State.moveTo_channel, hx],
        h1, h2, by omega⟩

theorem partOfPull_decodeChannel (src : Source) (c : Channel) (s : State) :
    PartOfPull src s (fun u => ChannelSet (u.channel c)) (decodeChannel src c s) :=
  partOfPull_streamRead src _ s _ _ (fun _ t => progress_applyCode c _ _ _ t)
    fun _ t => applyCode_channelSet c _ _ _ t

/-- Once a channel is set it stays so. -/
theorem Progress.channelSet {src : Source} {s u : State} (h : Progress src s u) {c : Channel}
    (hc : ChannelSet (s.channel c)) : ChannelSet (u.channel c) := by
  obtain ⟨h1, h2⟩ := h.inRange c hc.inRange
  obtain ⟨h3, h4⟩ := h.present c hc.present
  rcases hu : u.channel c with ⟨_ | x, _ | k⟩
  all_goals simp only [hu] at h1 h2 h3 h4
  · exact absurd rfl h3
  · exact absurd rfl h3
  · exact absurd rfl h4
  · exact ⟨x, k, rfl, (h1 x rfl).1, (h1 x rfl).2, h2 k rfl⟩

theorem partOfPull_forChannels (src : Source) (body : Channel → State → Pulling)
    (hb : ∀ c s, PartOfPull src s (fun u => ChannelSet (u.channel c)) (body c s))
    (cs : List Channel) (s : State) :
    PartOfPull src s (fun u => ∀ c ∈ cs, ChannelSet (u.channel c)) (forChannels body cs s) := by
  induction cs generalizing s with
  | nil => exact .inl ⟨s, rfl, .refl _ _, by simp⟩
  | cons c cs ih =>
    refine (hb c s).andThen fun u hu => ?_
    rcases ih u with ⟨t, h, hp, hg⟩ | ⟨t, mode, why, h, hp, he⟩
    · refine .inl ⟨t, h, hp, fun d hd => ?_⟩
      rcases List.mem_cons.mp hd with rfl | hd
      · exact hp.channelSet hu
      · exact hg d hd
    · exact .inr ⟨t, mode, why, h, hp, he⟩

/-- The two ways a pull in mode ACTIVE ends: an instant is emitted, every channel of the session
being set and the counter stepped; or a read failed (41_adpcm.md R145, R156 to R159). -/
theorem pullActive_cases (src : Source) (s : State) :
    (∃ u, pullActive src s = u.emitInstant (counterAfter s) ∧ Progress src s u ∧
      ∀ c ∈ channelsOf s.adpcm.nch, ChannelSet (u.channel c)) ∨
    (∃ u mode why, pullActive src s = (u.setMode mode).raise why ∧ Progress src s u ∧
      EndedBy mode why) := by
  have codes : ∀ s₀, Progress src s s₀ → ¬ (s.adpcm.blockCounter = 0 ∧
      s.params.headerEmit = .emitInitial) →
      (∃ u, pullCodes src s₀ = u.emitInstant (counterAfter s) ∧ Progress src s u ∧
        ∀ c ∈ channelsOf s.adpcm.nch, ChannelSet (u.channel c)) ∨
      (∃ u mode why, pullCodes src s₀ = (u.setMode mode).raise why ∧ Progress src s u ∧
        EndedBy mode why) := by
    intro s₀ h₀ hne
    rcases partOfPull_forChannels src _ (partOfPull_decodeChannel src) (channelsOf s₀.adpcm.nch) s₀
      with ⟨u, h, hp, hg⟩ | ⟨u, mode, why, h, hp, he⟩
    · have hp' := h₀.trans hp
      exact .inl ⟨u, by simp only [pullCodes, h, counterAfter, hne, if_false, hp'.counter], hp',
        by rw [← h₀.nch]; exact hg⟩
    · exact .inr ⟨u, mode, why, by simp only [pullCodes, h], h₀.trans hp, he⟩
  by_cases hb : s.adpcm.blockCounter = 0
  · rcases partOfPull_forChannels src _ (partOfPull_readHeader src) (channelsOf s.adpcm.nch) s
      with ⟨u, h, hp, hg⟩ | ⟨u, mode, why, h, hp, he⟩
    · rcases hh : s.params.headerEmit
      · simp only [pullActive, hb, if_true, h, hp.params, hh]
        exact codes u hp (by simp [hh])
      · exact .inl ⟨u, by simp only [pullActive, hb, if_true, h, hp.params, hh, counterAfter,
          and_self], hp, hg⟩
    · exact .inr ⟨u, mode, why, by simp only [pullActive, hb, if_true, h], hp, he⟩
  · simp only [pullActive, hb, if_false]
    exact codes s (.refl _ _) (by simp [hb])

/-- ADPCM.PULL by the mode of the session (41_adpcm.md R145, R160). -/
theorem execAdpcmPull_cases (s : State) :
    (s.adpcm.mode = .uninit ∧ exec .adpcmPull s = .next (s.raise .notInitialized)) ∨
    ((s.adpcm.mode = .ended ∨ s.adpcm.mode = .faulted) ∧
      exec .adpcmPull s = .next (s.raise .endOfStream)) ∨
    (s.adpcm.mode = .active ∧ s.cursor.src = none ∧ exec .adpcmPull s = .fault .noBoundSource) ∨
    (∃ src, s.adpcm.mode = .active ∧ s.cursor.src = some src ∧
      exec .adpcmPull s = .next (pullActive src s)) := by
  rcases hm : s.adpcm.mode
  · exact .inl ⟨rfl, by simp [exec, execAdpcmPull, hm]⟩
  · rcases hs : s.cursor.src with _ | src
    · exact .inr (.inr (.inl ⟨rfl, rfl, by simp [exec, execAdpcmPull, hm, hs]⟩))
    · exact .inr (.inr (.inr ⟨src, rfl, rfl, by simp [exec, execAdpcmPull, hm, hs]⟩))
  · exact .inr (.inl ⟨.inl rfl, by simp [exec, execAdpcmPull, hm]⟩)
  · exact .inr (.inl ⟨.inr rfl, by simp [exec, execAdpcmPull, hm]⟩)

end Sys2Proof.Machine
end

