-- ==== Sys2Proof/Tests/Slice0.lean ====
section
/-!
SUPPORT. Tests: ill-formed terms, words and bit patterns written out from the spec, single steps of
95_test_vectors.md, and for every statement with hypotheses a state and operands that meet them.
-/

namespace Sys2Proof.Tests

open Sys2Proof.Machine

/-! ### Helpers -/

/-- The next state, if there is one. -/
def after (o : Host.Outcome State Fault Refusal) : Option State :=
  match o with
  | .next s => some s
  | _ => none

/-- The last response of the next state, if there is one. -/
def reply (o : Host.Outcome State Fault Refusal) : Option Response :=
  (after o).bind State.lastResponse

/-- The default parameters with a size bound and the given answers of the services. -/
def paramsWith (zs : List (Buffer × Option Buffer)) (js : List (Buffer × Option JpegImage)) :
    Params :=
  { defaultParams with maxOutputBytes := 4096, inflateAnswers := zs, jpegAnswers := js }

/-- The reset state with a size bound. -/
def start : State := { State.reset with params := paramsWith [] [] }

/-- The reset state in which the buffer `[1]` inflates to `d`, and `[2]` fails. -/
def inflating (d : Buffer) : State :=
  { State.reset with params := paramsWith [([1], some d), ([2], none)] [] }

/-- As `inflating`, and the buffer `[7]` decodes to `j`, and `[8]` fails. -/
def imaging (d : Buffer) (j : JpegImage) : State :=
  { State.reset with
    params := paramsWith [([1], some d), ([2], none)] [([7], some j), ([8], none)] }

/-- A source of bytes without faults. -/
def bytes (l : List Byte) : Source := l.map Entry.byte

/-- `src` bound, with the cursor at bit `pos`. -/
def bound (src : Source) (pos : Nat) : State :=
  { start with cursor := { src := some src, byteOff := pos / 8, bitOff := pos % 8 } }

/-- An ACTIVE session over `src` at bit `pos`, its block counter at `counter`. -/
def session (nch : ChannelCount) (size : CodeSize) (src : Source) (pos counter : Nat) : State :=
  { bound src pos with
    adpcm :=
      { mode := .active, nch := nch, rate := 8000, bps := size, blockCounter := counter,
        left := { sample := some 0, stepIndex := some 0 },
        right := { sample := some (-5), stepIndex := some 3 } } }

/-- The left channel of a session at sample `x` and step index `k`. -/
def leftAt (x : Int) (k : Nat) : State :=
  let s := session .mono .b4 [] 0 1
  { s with adpcm := { s.adpcm with left := { sample := some x, stepIndex := some k } } }

/-- The left channel of the next state. -/
def leftAfter (o : Host.Outcome State Fault Refusal) : Option ChannelState :=
  (after o).map fun s => s.adpcm.left

/-- The position of the next state. -/
def posAfter (o : Host.Outcome State Fault Refusal) : Option Nat :=
  (after o).map fun s => s.cursor.pos

/-- A state whose host issues one command next. -/
def issuing (s : State) (w : Word) (operands : List Operand) : State := s.issueNext w operands

/-! ### WellFormed refuses what no word encodes -/

theorem test_wf_other_rgb32_of_version_1 :
    WellFormed (.imgLosslessOtherRgb32 0 1 1 1 []) = false := by decide
theorem test_wf_other_rgb32_of_version_2 :
    WellFormed (.imgLosslessOtherRgb32 0 2 1 1 []) = false := by decide
theorem test_wf_other_cmap8_of_version_1 :
    WellFormed (.imgLosslessOtherCmap8 0 1 1 1 []) = false := by decide
theorem test_wf_other_cmap8_of_version_2 :
    WellFormed (.imgLosslessOtherCmap8 0 2 1 1 []) = false := by decide
theorem test_wf_badfmt_of_known_format :
    WellFormed (.imgLosslessBadfmt 0 1 3 1 1 []) = false ∧
    WellFormed (.imgLosslessBadfmt 0 1 4 1 1 []) = false ∧
    WellFormed (.imgLosslessBadfmt 0 1 5 1 1 []) = false := by decide
/-- Witness of `DecodeReadsBackEveryEncoding`. -/
theorem witness_wellformed :
    WellFormed (.imgLosslessOtherRgb32 255 3 1 1 []) = true ∧
    WellFormed (.imgLosslessOtherCmap8 0 0 1 1 []) = true ∧
    WellFormed (.imgLosslessBadfmt 0 1 7 1 1 []) = true ∧
    WellFormed (.curRdu 63) = true ∧ WellFormed (.header .right 0xFFFF 63) = true := by decide

/-! ### Decoding: words from the opcode map (30_encoding.md R81 to R83), `OP` in bits 31..24 -/

theorem test_decode_curBind :
    decode (.command 0b00000001000000000000000000000000 [.source [.byte 0xA5, .fault]]) =
      .ok (.curBind [.byte 0xA5, .fault]) := by decide
theorem test_decode_curRdu :
    decode (.command 0b00000010000000000000000000100000 []) = .ok (.curRdu 32) := by decide
/-- The word of C16 is a word of CUR.RDU: its width 0 is judged by its meaning. -/
theorem test_decode_curRdu_0 : decode (.command 0x02000000 []) = .ok (.curRdu 0) := by decide
theorem test_decode_curRds :
    decode (.command 0b00000011000000000000000000000100 []) = .ok (.curRds 4) := by decide
theorem test_decode_adpcmInit :
    decode (.command 0b00010000000000000000000000000001 [.source [], .word 22050]) =
      .ok (.adpcmInit .stereo [] 22050) := by decide
theorem test_decode_adpcmInit_mono :
    decode (.command 0x10000000 [.source [.fault], .word 44100]) =
      .ok (.adpcmInit .mono [.fault] 44100) := by decide
theorem test_decode_adpcmPull :
    decode (.command 0b00010001000000000000000000000000 []) = .ok .adpcmPull := by decide
theorem test_decode_imgAlpha :
    decode (.command 0b00100000000000000000000000000000 [.buffer [1], .buffer [2]]) =
      .ok (.imgAlpha [1] [2]) := by decide
theorem test_decode_v1Rgb32 :
    decode (.command 0b00100001000000000000000100000101 [.word 2, .word 1, .buffer [9]]) =
      .ok (.imgLosslessV1Rgb32 0 2 1 [9]) := by decide
theorem test_decode_v2Rgb32 :
    decode (.command 0x21000205 [.word 1, .word 2, .buffer []]) =
      .ok (.imgLosslessV2Rgb32 0 1 2 []) := by decide
/-- `NCOL` = [23:16], `VER` = [15:8], `FMT` = [7:0] (30_encoding.md R81). -/
theorem test_decode_v1Cmap8 :
    decode (.command 0b00100001111111110000000100000011 [.word 1, .word 1, .buffer []]) =
      .ok (.imgLosslessV1Cmap8 255 1 1 []) := by decide
theorem test_decode_v2Cmap8 :
    decode (.command 0x21010203 [.word 1, .word 1, .buffer []]) =
      .ok (.imgLosslessV2Cmap8 1 1 1 []) := by decide
theorem test_decode_rgb15 :
    decode (.command 0x21000104 [.word 1, .word 1, .buffer []]) =
      .ok (.imgLosslessRgb15 0 1 1 1 []) := by decide
theorem test_decode_otherRgb32 :
    decode (.command 0x21000305 [.word 1, .word 1, .buffer []]) =
      .ok (.imgLosslessOtherRgb32 0 3 1 1 []) := by decide
theorem test_decode_otherCmap8 :
    decode (.command 0x21000003 [.word 1, .word 1, .buffer []]) =
      .ok (.imgLosslessOtherCmap8 0 0 1 1 []) := by decide
theorem test_decode_badfmt :
    decode (.command 0x21000107 [.word 1, .word 1, .buffer []]) =
      .ok (.imgLosslessBadfmt 0 1 7 1 1 []) := by decide

/-! ### Decoding: bit patterns in stream order (30_encoding.md R88 to R91; programs P1, P2) -/

theorem test_decode_sizeCode : decode (.element .sizeCode 0b10) = .ok (.sizeCode 0b10) := by decide
/-- `.hdr -1000, 5` of program P2. -/
theorem test_decode_header :
    decode (.element (.header .right) 0b1111110000011000000101) =
      .ok (.header .right 0xFC18 5) := by decide
theorem test_decode_code2 :
    decode (.element (.code .b2 .right) 0b10) = .ok (.code2 .right true 0) := by decide
theorem test_decode_code3 :
    decode (.element (.code .b3 .left) 0b011) = .ok (.code3 .left false 3) := by decide
theorem test_decode_code4 :
    decode (.element (.code .b4 .left) 0b1101) = .ok (.code4 .left true 5) := by decide
theorem test_decode_code5 :
    decode (.element (.code .b5 .left) 0b01000) = .ok (.code5 .left false 8) := by decide

/-! ### Rejections, by name (30_encoding.md R84) -/

/-- C24. -/
theorem test_reject_unassigned :
    decode (.command 0x04000000 []) = .error .unassignedOpcode := by decide
/-- C18: reserved bit 8 set. -/
theorem test_reject_reserved : decode (.command 0x02000103 []) = .error .reservedBit := by decide
theorem test_reject_reserved_init :
    decode (.command 0x10000002 [.source [], .word 0]) = .error .reservedBit := by decide
theorem test_reject_missing_operand :
    decode (.command 0x01000000 []) = .error .operandMismatch := by decide
theorem test_reject_excess_operand :
    decode (.command 0x11000000 [.word 0]) = .error .operandMismatch := by decide
theorem test_reject_operand_kind :
    decode (.command 0x01000000 [.buffer []]) = .error .operandMismatch := by decide
theorem test_reject_wide_element :
    decode (.element .sizeCode 4) = .error .notThisWide := by decide

/-! ### Table words -/

theorem test_table_word : decodeTableWord 32 0x11000000 = some .adpcmPull := by decide
theorem test_table_word_header :
    decodeTableWord 22 0b1111110000011000000101 = some (.header .left 0xFC18 5) := by decide

/-- CUR.BIND of the empty source, placed after reset, runs as the next step. -/
theorem test_fetch_command :
    ((after (step (start.withFetchWord 32 0x01000000))).map fun t => t.cursor.src) =
      some (some []) := by decide
/-- A placed header is read by a pull of a session at a block start. -/
theorem test_fetch_header :
    leftAfter (step (start.withFetchWord 22 0b1111110000011000000101)) =
      some { sample := some (-1000), stepIndex := some 5 } := by decide
/-- A placed 5-bit code: the row "5, 0, 0, 01111" of 95_test_vectors.md 2.2. -/
theorem test_fetch_code5 :
    leftAfter (step (start.withFetchWord 5 0b01111)) =
      some { sample := some 13, stepIndex := some 16 } := by decide
theorem test_fetch_sizeCode :
    ((after (step (start.withFetchWord 2 0b01))).map fun t => t.adpcm.bps) = some .b3 := by decide

/-! ### The tables and the state after reset -/

theorem test_step_table : defaultParams.stepTable.length = 89 ∧
    defaultParams.stepTable[40]? = some 337 ∧ defaultParams.stepTable[80]? = some 15289 ∧
    defaultParams.stepTable[86]? = some 27086 := by decide

/-! ### The cursor commands (95_test_vectors.md 2.1) -/

/-- The source of C1 to C10. -/
def cursorSource : Source := bytes [0xA5, 0x3C, 0xFF, 0x00, 0x80]

theorem test_curBind_empty :
    reply (exec (.curBind []) (bound cursorSource 13)) = some (.ok .empty) ∧
    posAfter (exec (.curBind []) (bound cursorSource 13)) = some 0 := by decide
/-- C7: 9 bits over two byte boundaries. -/
theorem test_curRdu_C7 :
    reply (exec (.curRdu 9) (bound cursorSource 29)) = some (.ok (.value 32)) ∧
    posAfter (exec (.curRdu 9) (bound cursorSource 29)) = some 38 := by decide
/-- C11: a read spanning 5 bytes. -/
theorem test_curRdu_C11 :
    reply (exec (.curRdu 32) (bound (bytes [0x12, 0x34, 0x56, 0x78, 0x9A]) 4)) =
      some (.ok (.value 0x23456789)) := by decide
/-- C4. -/
theorem test_curRds_C4 :
    reply (exec (.curRds 4) (bound cursorSource 12)) = some (.ok (.value 0xFFFFFFFC)) ∧
    posAfter (exec (.curRds 4) (bound cursorSource 12)) = some 16 := by decide
/-- C13. -/
theorem test_curRds_C13 :
    reply (exec (.curRds 32) (bound (bytes [0x80, 0, 0, 0]) 0)) =
      some (.ok (.value 0x80000000)) := by decide
/-- C8, C21, C22, C16 and C19. -/
theorem test_cursor_failures :
    reply (exec (.curRdu 3) (bound cursorSource 38)) = some (.failed .endOfStream) ∧
    reply (exec (.curRdu 1) (bound [.byte 0xA5, .fault, .byte 0x3C] 8)) =
      some (.failed .sourceFault) ∧
    reply (exec (.curRdu 16) (bound [.byte 0xA5, .fault] 4)) = some (.failed .endOfStream) ∧
    reply (exec (.curRdu 0) start) = some (.failed .illegalCommand) ∧
    reply (exec (.curRdu 1) start) = some (.failed .notInitialized) := by decide
/-- C20: the fault entry is not touched. -/
theorem test_fault_not_touched :
    reply (exec (.curRdu 4) (bound [.byte 0xA5, .fault, .byte 0x3C] 4)) =
      some (.ok (.value 5)) := by decide

/-! ### The stream elements (95_test_vectors.md 2.2) -/

theorem test_sizeCode :
    ((after (exec (.sizeCode 3) start)).map fun t => t.adpcm.bps) = some .b5 := by decide
theorem test_header :
    leftAfter (exec (.header .left 0xFC18 63) start) =
      some { sample := some (-1000), stepIndex := some 63 } := by decide
/-- The low clamp, with its quirk value. -/
theorem test_code2_low_clamp :
    leftAfter (exec (.code2 .left true 1) (leftAt 0 88)) =
      some { sample := some (-32768), stepIndex := some 88 } := by decide
theorem test_code2_negative_zero :
    leftAfter (exec (.code2 .left true 0) (leftAt 0 0)) =
      some { sample := some (-3), stepIndex := some 0 } := by decide
theorem test_code3 :
    leftAfter (exec (.code3 .left true 3) (leftAt 100 10)) =
      some { sample := some 67, stepIndex := some 14 } := by decide
theorem test_code3_step_8 :
    leftAfter (exec (.code3 .left false 0) (leftAt 0 1)) =
      some { sample := some 2, stepIndex := some 0 } := by decide
theorem test_code4 :
    leftAfter (exec (.code4 .left false 5) (leftAt 1000 40)) =
      some { sample := some 1463, stepIndex := some 44 } := by decide
theorem test_code4_index_clamp :
    leftAfter (exec (.code4 .left false 7) (leftAt 0 86)) =
      some { sample := some 32767, stepIndex := some 88 } := by decide
theorem test_code5 :
    leftAfter (exec (.code5 .left true 8) (leftAt 200 20)) =
      some { sample := some 147, stepIndex := some 21 } := by decide
theorem test_code5_index_down :
    leftAfter (exec (.code5 .left true 0) (leftAt (-5) 3)) =
      some { sample := some (-5), stepIndex := some 2 } := by decide

/-! ### ADPCM.INIT and ADPCM.PULL (95_test_vectors.md 2.3) -/

/-- A3. -/
theorem test_adpcmInit_A3 :
    reply (exec (.adpcmInit .mono (bytes [0x80]) 8000) start) = some (.ok (.bps 4)) ∧
    posAfter (exec (.adpcmInit .mono (bytes [0x80]) 8000) start) = some 2 := by decide
/-- A6. -/
theorem test_adpcmInit_A6 :
    reply (exec (.adpcmInit .mono [.fault] 8000) start) = some (.failed .sourceFault) ∧
    ((after (exec (.adpcmInit .mono [.fault] 8000) start)).map fun t => t.adpcm.mode) =
      some .faulted := by decide
/-- The source of program P1. -/
def sourceP1 : Source := bytes [0x80, 0x00, 0x00, 0x77, 0x7F, 0x08]
/-- The first pull of program P1. -/
theorem test_adpcmPull_P1 :
    reply (exec .adpcmPull (session .mono .b4 sourceP1 2 0)) = some (.ok (.mono 13)) ∧
    leftAfter (exec .adpcmPull (session .mono .b4 sourceP1 2 0)) =
      some { sample := some 13, stepIndex := some 8 } := by decide
/-- The first pull of program P2: stereo, left then right. -/
theorem test_adpcmPull_P2 :
    reply (exec .adpcmPull
      (session .stereo .b2 (bytes [0x00, 0xFA, 0x14, 0xFC, 0x18, 0x15, 0xB1]) 2 0)) =
      some (.ok (.stereo 1075 (BitVec.ofInt 16 (-1006)))) := by decide

/-! ### The image commands (95_test_vectors.md 2.4, 2.5) -/

/-- The JPEG answer of V-A1. -/
def jpegA1 : JpegImage := { width := 2, height := 1, rgb := [0xFF, 0, 0, 0, 0xFF, 0] }

/-- V-A1. -/
theorem test_imgAlpha_A1 :
    reply (exec (.imgAlpha [7] [1]) (imaging [0x80, 0x40] jpegA1)) =
      some (.ok (.image 2 1 [0xFF, 0, 0, 0x80, 0, 0xFF, 0, 0x40])) := by decide
/-- V-A2, V-A4 and V-A5. -/
theorem test_imgAlpha_failures :
    reply (exec (.imgAlpha [7] [1]) (imaging [7] jpegA1)) = some (.failed .sizeMismatch) ∧
    reply (exec (.imgAlpha [8] [2]) (imaging [7] jpegA1)) = some (.failed .decodeError) ∧
    reply (exec (.imgAlpha [7] [2]) (imaging [7] jpegA1)) = some (.failed .inflateError) := by
  decide
/-- V-L1. -/
theorem test_v1Rgb32_L1 :
    reply (exec (.imgLosslessV1Rgb32 0 2 1 [1])
      (inflating [0, 0x11, 0x22, 0x33, 0x99, 0x44, 0x55, 0x66])) =
      some (.ok (.image 2 1 [0x11, 0x22, 0x33, 0xFF, 0x44, 0x55, 0x66, 0xFF])) := by decide
/-- V-L12. -/
theorem test_v1Rgb32_L12 :
    reply (exec (.imgLosslessV1Rgb32 0 2 1 [1]) (inflating [0, 0x11, 0x22, 0x33, 0x99, 0x44, 0x55])) =
      some (.failed .sizeMismatch) := by decide
/-- V-L2. -/
theorem test_v2Rgb32_L2 :
    reply (exec (.imgLosslessV2Rgb32 0 1 2 [1])
      (inflating [0x80, 0x11, 0x22, 0x33, 0, 0x44, 0x55, 0x66])) =
      some (.ok (.image 1 2 [0x11, 0x22, 0x33, 0x80, 0x44, 0x55, 0x66, 0])) := by decide
/-- V-L3: padding, an index out of range, the last row without padding. -/
theorem test_v1Cmap8_L3 :
    reply (exec (.imgLosslessV1Cmap8 1 3 2 [1])
      (inflating [1, 2, 3, 4, 5, 6, 0, 1, 2, 0x77, 1, 1, 0])) =
      some (.ok (.image 3 2 [1, 2, 3, 0xFF, 4, 5, 6, 0xFF, 0, 0, 0, 0xFF,
        4, 5, 6, 0xFF, 4, 5, 6, 0xFF, 1, 2, 3, 0xFF])) := by decide
/-- V-L14: the second row is short. -/
theorem test_v1Cmap8_L14 :
    reply (exec (.imgLosslessV1Cmap8 0 2 2 [1]) (inflating [0x0A, 0x14, 0x1E, 0, 0, 0, 0, 0])) =
      some (.failed .sizeMismatch) := by decide
/-- V-L4. -/
theorem test_v2Cmap8_L4 :
    reply (exec (.imgLosslessV2Cmap8 1 1 1 [1]) (inflating [1, 2, 3, 4, 5, 6, 7, 8, 1])) =
      some (.ok (.image 1 1 [5, 6, 7, 8])) := by decide
/-- S6: an index out of range is transparent black. -/
theorem test_v2Cmap8_S6 :
    reply (exec (.imgLosslessV2Cmap8 0 1 1 [1]) (inflating [0x0A, 0x14, 0x1E, 0x28, 5])) =
      some (.ok (.image 1 1 [0, 0, 0, 0])) := by decide
/-- V-L7 and V-L8. -/
theorem test_rgb15_L7_L8 :
    reply (exec (.imgLosslessRgb15 0 1 1 1 [1]) (inflating [])) = some (.failed .unimplemented) ∧
    reply (exec (.imgLosslessRgb15 0 1 1 1 [2]) (inflating [])) =
      some (.failed .inflateError) := by decide
/-- V-L9. -/
theorem test_otherRgb32_L9 :
    reply (exec (.imgLosslessOtherRgb32 0 3 1 1 [1]) (inflating [0, 0, 0, 0])) =
      some (.failed .unimplemented) := by decide
/-- V-L10: Unimplemented before SizeMismatch. -/
theorem test_otherCmap8_L10 :
    reply (exec (.imgLosslessOtherCmap8 0 0 1 1 [1]) (inflating [0])) =
      some (.failed .unimplemented) := by decide
/-- V-L11: MalformedHeader before the inflate that would fail. -/
theorem test_badfmt_L11 :
    reply (exec (.imgLosslessBadfmt 0 1 7 1 1 [2]) (inflating [])) =
      some (.failed .malformedHeader) := by decide

/-! ### Witnesses: the step and the host's events

Each theorem below shows a state and operands that meet the hypotheses of the statement it is named
after, one for each clause. -/

theorem witness_StepRunsTheDecodedCommand :
    (start.issueNext 0x11000000 []).host.program = [.command 0x11000000 []] ∧
    decode (.command 0x11000000 []) = .ok .adpcmPull := by decide

/-- The causes of an illegal word, one each, at their boundaries. -/
theorem witness_IllegalCommand_illegal :
    IllegalCommandWord 0x04000000 [] ∧ IllegalCommandWord 0x00000000 [] ∧
    IllegalCommandWord 0x02000041 [] ∧ IllegalCommandWord 0x02000000 [] ∧
    IllegalCommandWord 0x03000021 [] ∧ IllegalCommandWord 0x0200003F [] ∧
    IllegalCommandWord 0x01000000 [] := by
  simp [IllegalCommandWord, opcodeMap, opNumber]

theorem witness_IllegalCommand_legal :
    ¬ IllegalCommandWord 0x02000001 [] ∧ ¬ IllegalCommandWord 0x03000020 [] ∧
    ¬ IllegalCommandWord 0x21FFFFFF [.word 0, .word 0, .buffer []] := by
  simp [IllegalCommandWord, opcodeMap, opNumber, kindOf]

theorem witness_IdleBlockKeepsItsState : State.reset.host.program = [] := by decide

theorem witness_ResetEvent :
    ({ start with host := { program := [.reset], responses := [] } } : State).host.program =
      .reset :: [] := by decide

/-- A session inside a block, with values in its channels, about to pull. -/
def legalState : State := (session .stereo .b2 (bytes [0x1B]) 0 4094).issueNext 0x11000000 []

theorem witness_LegalState : LegalState legalState where
  cursor := ⟨by decide, by show legalState.cursor.pos ≤ 8; decide⟩
  counter := by decide
  left := ⟨by rintro v ⟨⟩; decide, by rintro k ⟨⟩; decide⟩
  right := ⟨by rintro v ⟨⟩; decide, by rintro k ⟨⟩; decide⟩
  bound := by decide
  present := by rintro _ _ (_ | _) _ <;> exact ⟨nofun, nofun⟩

theorem witness_LegalState_steps :
    ((after (step legalState)).map fun t => t.adpcm.blockCounter) = some 0 := by decide

/-! ### Witnesses: what commands write -/

theorem witness_FieldsAreWritten :
    (after (exec (.imgLosslessBadfmt 0 0 0 0 0 []) start)).isSome ∧
    (after (exec (.curRdu 1) start)).isSome ∧ (after (exec (.curRds 32) start)).isSome ∧
    (after (exec (.curBind []) start)).isSome ∧ (after (exec .adpcmPull start)).isSome ∧
    (after (exec (.sizeCode 0) start)).isSome ∧ (after (exec (.header .right 0 0) start)).isSome ∧
    isImageCommand (.imgLosslessBadfmt 0 0 0 0 0 []) = true ∧
    isCommand (.sizeCode 0) = false ∧ isCommand (.header .right 0 0) = false := by decide

/-- Also of `EveryCommandGivesOneFittingResponse`, with an OK payload. -/
theorem witness_EveryCommandGives :
    isCommand (.curRdu 8) = true ∧
    exec (.curRdu 8) (bound cursorSource 0) =
      .next (((bound cursorSource 0).moveTo 8).answer (.value 0xA5)) := by
  constructor <;> rfl

theorem witness_FailuresOtherThanReadFailures :
    exec (.curRdu 0) start = .next (start.raise .illegalCommand) ∧
    (start.raise .illegalCommand).host.responses =
      start.host.responses ++ [.failed .illegalCommand] := by
  constructor <;> rfl

/-! ### Witnesses: the cursor commands -/

theorem witness_CurReads_width_1 :
    (bound cursorSource 28).cursor.src = some cursorSource ∧
    Readable cursorSource (bound cursorSource 28).cursor.pos (1 : BitVec 6).toNat := by
  unfold Readable FaultAmong; decide

/-- A read of the greatest width that ends with the source. -/
theorem witness_CurReads_width_32 :
    (bound cursorSource 8).cursor.src = some cursorSource ∧
    Readable cursorSource (bound cursorSource 8).cursor.pos (32 : BitVec 6).toNat := by
  unfold Readable FaultAmong; decide

theorem witness_illegal_widths :
    (0 : BitVec 6).toNat = 0 ∧ 33 ≤ (33 : BitVec 6).toNat ∧ 33 ≤ (63 : BitVec 6).toNat := by decide

theorem witness_no_source :
    start.cursor.src = none ∧ 1 ≤ (1 : BitVec 6).toNat ∧ (32 : BitVec 6).toNat ≤ 32 := by decide

/-- C10: the end of the source, one bit past it. -/
theorem witness_FailedCursorReads_end :
    8 * cursorSource.length < (bound cursorSource 40).cursor.pos + (1 : BitVec 6).toNat := by decide

theorem witness_FailedCursorReads_fault :
    (bound [.byte 0xA5, .fault] 7).cursor.pos + (2 : BitVec 6).toNat ≤
      8 * ([.byte 0xA5, .fault] : Source).length ∧
    FaultAmong [.byte 0xA5, .fault] (bound [.byte 0xA5, .fault] 7).cursor.pos
      (2 : BitVec 6).toNat := by
  unfold FaultAmong; decide

/-! ### Witnesses: the decoder -/

theorem witness_CodesDecodeOneSample :
    (leftAt 0 0).channel .left = { sample := some 0, stepIndex := some 0 } ∧
    (leftAt 0 0).params.stepTable[0]? = some 7 ∧
    (leftAt 0 0).params.indexTable.v2[(1 : BitVec 1).toNat]? = some 2 ∧
    (leftAt 0 0).params.indexTable.v3[(3 : BitVec 2).toNat]? = some 4 ∧
    (leftAt 0 0).params.indexTable.v4[(7 : BitVec 3).toNat]? = some 8 ∧
    (leftAt 0 0).params.indexTable.v5[(15 : BitVec 4).toNat]? = some 16 := by decide

/-- As `start`, with `HEADER_EMIT = EMIT_INITIAL`. -/
def emitting (s : State) : State := { s with params := { s.params with headerEmit := .emitInitial } }

/-- A pull at a block start, by both values of the parameter, and one inside a block that ends with
the source. -/
theorem witness_PullRuns :
    (session .mono .b4 sourceP1 2 0).adpcm.mode = .active ∧
    (session .mono .b4 sourceP1 2 0).cursor.src = some sourceP1 ∧
    Readable sourceP1 2 (dueBits (session .mono .b4 sourceP1 2 0)) ∧
    Readable sourceP1 2 (dueBits (emitting (session .mono .b4 sourceP1 2 0))) ∧
    Readable sourceP1 40 (dueBits (session .stereo .b4 sourceP1 40 4094)) := by
  unfold Readable FaultAmong; decide

/-- A10: the first pull under `EMIT_INITIAL` emits the header sample. -/
theorem test_adpcmPull_A10 :
    reply (exec .adpcmPull (emitting (session .mono .b4 sourceP1 2 0))) = some (.ok (.mono 0)) ∧
    ((after (exec .adpcmPull (emitting (session .mono .b4 sourceP1 2 0)))).map fun t =>
      t.adpcm.blockCounter) = some 1 := by decide

/-- The first element fails: a code at the end, a code at a fault, a header whose first read fails,
a header whose second read fails. -/
theorem witness_PullEnds_first :
    dueElements (session .mono .b5 [] 0 1) = [] ++ .code .b5 .left :: [] ∧
    ElementsRun [] [] (session .mono .b5 [] 0 1) (session .mono .b5 [] 0 1) ∧
    ReadFails [] 0 CodeSize.b5.bits .ended .endOfStream ∧
    ReadFails [.fault] 0 CodeSize.b5.bits .faulted .sourceFault ∧
    dueElements (session .mono .b5 (bytes [0, 0]) 2 0) =
      [] ++ .header .left :: [.code .b5 .left] ∧
    ReadFails (bytes [0, 0]) 2 16 .ended .endOfStream ∧
    StreamBits (bytes [0, 0]) 0 16 (0 : BitVec 16).toNat ∧
    ReadFails (bytes [0, 0]) (0 + 16) 6 .ended .endOfStream := by
  refine ⟨by decide, .none _, .inl (by decide), .inr ?_, by decide, .inl (by decide), ?_,
    .inl (by decide)⟩
  · unfold FaultAmong; decide
  · unfold StreamBits; decide

/-- P2's third pull: the left code has run, the right one meets the end. -/
theorem witness_PullEnds_second :
    ∃ u, dueElements (session .stereo .b2 (bytes [0xB1]) 6 2) =
        [.code .b2 .left] ++ .code .b2 .right :: [] ∧
      ElementsRun (bytes [0xB1]) [.code .b2 .left] (session .stereo .b2 (bytes [0xB1]) 6 2) u ∧
      ReadFails (bytes [0xB1]) u.cursor.pos CodeSize.b2.bits .ended .endOfStream := by
  refine ⟨_, by decide, .more (v := 1) (i := .code2 .left false 1) ?_ (by decide) rfl (.none _),
    .inl (by decide)⟩
  unfold StreamBits; decide

theorem witness_modes :
    start.adpcm.mode = .uninit ∧ (start.setMode .ended).adpcm.mode = .ended ∧
    (start.setMode .faulted).adpcm.mode = .faulted ∧ start.params = start.params := by
  refine ⟨rfl, rfl, rfl, rfl⟩

/-- A CUR read and a pull, from a session that has ended. -/
theorem witness_TerminatedSessions :
    (session .mono .b2 (bytes [0]) 0 1 |>.setMode .ended).adpcm.mode = .ended ∧
    isCommand (.curRdu 3) = true ∧ isCommand .adpcmPull = true ∧
    posAfter (execAll [.curRdu 3, .adpcmPull]
      ((session .mono .b2 (bytes [0]) 0 1).setMode .ended)) = some 3 := by decide

theorem witness_TerminatedSessions_fault :
    exec .adpcmPull (session .mono .b2 [.fault] 0 1) =
      .next (((session .mono .b2 [.fault] 0 1).setMode .faulted).raise .sourceFault) := rfl

/-- The left code is `00` at (0, 0): 0 + 3.
The right code is `01` at (-5, 3): -5 + (3 * 10) div 2. -/
theorem witness_OkPulls_and_BlockCounter_ok :
    ∃ t, exec .adpcmPull (session .stereo .b2 (bytes [0x1B]) 0 4094) = .next t ∧
      t.host.responses =
        (session .stereo .b2 (bytes [0x1B]) 0 4094).host.responses ++
          [.ok (.stereo 3 10)] :=
  ⟨_, rfl, by decide⟩

theorem witness_BlockCounter_failed :
    ∃ t, exec .adpcmPull (session .mono .b2 [] 0 7) = .next t ∧
      t.host.responses = (session .mono .b2 [] 0 7).host.responses ++ [.failed .endOfStream] :=
  ⟨_, rfl, by decide⟩

theorem witness_BlocksTakeTheirBits :
    (session .mono .b4 sourceP1 2 0).adpcm.mode = .active ∧
    (session .mono .b4 sourceP1 2 0).adpcm.blockCounter = 0 ∧
    ((after (execAll (List.replicate 1 .adpcmPull) (session .mono .b4 sourceP1 2 0))).map
      fun t => t.adpcm.mode) = some .active ∧
    ((after (execAll (List.replicate 2 .adpcmPull) (session .mono .b4 sourceP1 2 0))).map
      fun t => t.adpcm.mode) = some .active := by decide

/-! ### Witnesses: the image commands -/

theorem witness_services :
    (imaging [0x80, 0x40] jpegA1).jpegDecode [8] = none ∧
    (imaging [0x80, 0x40] jpegA1).jpegDecode [7] = some jpegA1 ∧
    (imaging [0x80, 0x40] jpegA1).inflate [2] = none ∧
    (imaging [0x80, 0x40] jpegA1).inflate [1] = some [0x80, 0x40] := by
  refine ⟨rfl, rfl, rfl, rfl⟩

/-- V-A6 and V-A2 are short, V-A1 is enough, and a size bound of 7 bytes is too small for it. -/
theorem witness_ImgAlpha_lengths :
    (let n := jpegA1.width.toNat * jpegA1.height.toNat
     ([0xFF, 0, 0] : Buffer).length < 3 * n ∧ ([7] : Buffer).length < n ∧
      3 * n ≤ jpegA1.rgb.length ∧ n ≤ ([0x80, 0x40] : Buffer).length ∧
      4 * n ≤ start.params.maxOutputBytes ∧ 7 < 4 * n) := by decide

/-- V-L18: the output is too large for the size bound. -/
def smallBound (d : Buffer) : State :=
  { inflating d with params := { (inflating d).params with maxOutputBytes := 3 } }

theorem witness_output_too_large :
    (smallBound [0, 0x11, 0x22, 0x33]).inflate [1] = some [0, 0x11, 0x22, 0x33] ∧
    exec (.imgLosslessV1Rgb32 0 1 1 [1]) (smallBound [0, 0x11, 0x22, 0x33]) =
      .refused .outputTooLarge := by
  constructor <;> rfl

/-- `d` of V-L12 is short by one byte, `d` of V-L1 just long enough. -/
theorem witness_Rgb32_lengths :
    (let n := (2 : Word).toNat * (1 : Word).toNat
     7 < 4 * n ∧ 4 * n ≤ 8 ∧ 4 * n ≤ start.params.maxOutputBytes) := by decide

/-- Version 1, `NCOL = 1`, 3 by 2 (V-L3): the palette short, the rows short, just enough. -/
theorem witness_V1Cmap8_lengths :
    (let base := 3 * ((1 : Byte).toNat + 1)
     let stride := 4 * (((3 : Word).toNat + 3) / 4)
     5 < base ∧ 12 < base + ((2 : Word).toNat - 1) * stride + (3 : Word).toNat ∧
      base + ((2 : Word).toNat - 1) * stride + (3 : Word).toNat = 13) := by decide

/-- Version 2, `NCOL = 1`, 1 by 1 (V-L13, V-L4): the palette short, the index short, just enough. -/
theorem witness_V2Cmap8_lengths :
    (let base := 4 * ((1 : Byte).toNat + 1)
     let stride := 4 * (((1 : Word).toNat + 3) / 4)
     7 < base ∧ 8 < base + ((1 : Word).toNat - 1) * stride + (1 : Word).toNat ∧
      base + ((1 : Word).toNat - 1) * stride + (1 : Word).toNat = 9) := by decide

/-- The size bound is 3 bytes and the output 4, for each of the transforms. -/
theorem witness_Cmap8_too_large :
    exec (.imgLosslessV1Cmap8 0 1 1 [1]) (smallBound [1, 2, 3, 0]) = .refused .outputTooLarge ∧
    exec (.imgLosslessV2Cmap8 0 1 1 [1]) (smallBound [1, 2, 3, 4, 0]) = .refused .outputTooLarge ∧
    exec (.imgLosslessV2Rgb32 0 1 1 [1]) (smallBound [1, 2, 3, 4]) = .refused .outputTooLarge := by
  refine ⟨rfl, rfl, rfl⟩

/-- The versions and formats of the statements about selections, at the boundaries. -/
theorem witness_selections :
    (0 : Byte) ≠ 1 ∧ (0 : Byte) ≠ 2 ∧ (3 : Byte) ≠ 1 ∧ (3 : Byte) ≠ 2 ∧
    (2 : Byte) ≠ 3 ∧ (2 : Byte) ≠ 4 ∧ (2 : Byte) ≠ 5 ∧
    (6 : Byte) ≠ 3 ∧ (6 : Byte) ≠ 4 ∧ (6 : Byte) ≠ 5 ∧
    (inflating []).inflate [1] = some [] ∧ (inflating []).inflate [2] = none := by decide

/-- V-L16 and V-L17: width 0, the palette there and the palette short; and height 0. -/
theorem witness_ZeroDimensions :
    reply (exec (.imgLosslessV1Cmap8 0 0 5 [1]) (inflating [1, 2, 3])) =
      some (.ok (.image 0 5 [])) ∧
    reply (exec (.imgLosslessV1Cmap8 0 0 5 [1]) (inflating [1, 2])) =
      some (.failed .sizeMismatch) ∧
    reply (exec (.imgLosslessV2Rgb32 0 5 0 [1]) (inflating [])) =
      some (.ok (.image 5 0 [])) := by decide

end Sys2Proof.Tests
end

section
/-!
PROOFS of 00_scope.md R3: how a step takes the host's events, and what running an instruction leaves
of the parameters and of the host's record.
-/

namespace Sys2Proof.Machine

/-! ### The step, by the host's next event -/

/-- With nothing issued the block waits (70_reset_and_hazards.md R261). -/
theorem step_of_idle {s : State} (h : s.host.program = []) : step s = .next s := by
  simp only [step, h, State.idle]

/-- A reset event resets the block (70_reset_and_hazards.md R260). -/
theorem step_of_reset {s : State} {rest : List HostEvent}
    (h : s.host.program = .reset :: rest) : step s = .next (s.issued rest).resetBlock := by
  simp only [step, h]

/-- A command that decodes is run in the state in which the host has issued it (00_scope.md R3). -/
theorem step_of_decoded {s : State} {w : Word} {operands : List Operand} {rest : List HostEvent}
    {i : Instr} (h : s.host.program = .command w operands :: rest)
    (hd : decode (.command w operands) = .ok i) : step s = exec i (s.issued rest) := by
  simp only [step, h, hd]

/-- A command that does not decode answers IllegalCommand (30_encoding.md R84). -/
theorem step_of_rejected {s : State} {w : Word} {operands : List Operand} {rest : List HostEvent}
    {e : DecodeError} (h : s.host.program = .command w operands :: rest)
    (hd : decode (.command w operands) = .error e) :
    step s = .next ((s.issued rest).raise .illegalCommand) := by
  simp only [step, h, hd, State.illegalCommand]

/-- Settles O4: `State.issued` is the update the statement writes out. -/
theorem stepRunsTheDecodedCommand : Obligations.StepRunsTheDecodedCommand :=
  fun _ _ _ _ _ => step_of_decoded

/-! ### What a command does to the parameters and the host's record -/

/-- `t` is reached from `s` by changes of the cursor and the session alone and then one response. -/
def RespondsOnce (s t : State) : Prop :=
  ∃ (u : State) (r : Response), t = u.respond r ∧ u.params = s.params ∧ u.host = s.host

/-- A failure with no other change is one response (60_exceptions.md R230). -/
theorem respondsOnce_raise (s : State) (why : Failure) : RespondsOnce s (s.raise why) :=
  ⟨s, _, rfl, rfl, rfl⟩

@[simp] theorem State.openSession_params (s : State) (nch : ChannelCount) (src : Source)
    (rate : Word) : (s.openSession nch src rate).params = s.params := rfl
@[simp] theorem State.openSession_host (s : State) (nch : ChannelCount) (src : Source)
    (rate : Word) : (s.openSession nch src rate).host = s.host := rfl
@[simp] theorem applySizeCode_params (cc : BitVec 2) (s : State) :
    (applySizeCode cc s).params = s.params := rfl
@[simp] theorem applySizeCode_host (cc : BitVec 2) (s : State) :
    (applySizeCode cc s).host = s.host := rfl

/-- CUR.RDU and CUR.RDS answer once, whichever of their failures they meet (40_cursor.md R124 to
R127). -/
theorem cursorRead_respondsOnce (n : BitVec 6) (view : Nat → Word) (s : State) :
    RespondsOnce s (cursorRead n view s) := by
  unfold cursorRead
  split
  · split
    · exact respondsOnce_raise s _
    · rename_i src _
      rcases h : readBits src n.toNat s with ⟨v, t⟩ | _ | _
      · obtain ⟨-, -, -, rfl⟩ := readBits_ok h
        exact ⟨_, _, rfl, State.moveTo_params _ _, State.moveTo_host _ _⟩
      · exact respondsOnce_raise s _
      · exact respondsOnce_raise s _
  · exact respondsOnce_raise s _

/-- ADPCM.INIT answers once, whether its read of the size code succeeds or fails
(41_adpcm.md R144). -/
theorem execAdpcmInit_respondsOnce {nch : ChannelCount} {src : Source} {rate : Word} {s t : State}
    (h : execAdpcmInit nch src rate s = .next t) : RespondsOnce s t := by
  simp only [execAdpcmInit] at h
  rcases hr : readBits src 2 (s.openSession nch src rate) with ⟨v, u⟩ | _ | _ <;>
    simp only [hr] at h <;> cases h
  case ok =>
    obtain ⟨-, -, -, rfl⟩ := readBits_ok hr
    exact ⟨_, _, rfl, by simp, by simp⟩
  case eos => exact ⟨_, _, rfl, by simp, by simp⟩
  case fault => exact ⟨_, _, rfl, by simp, by simp⟩

/-- A pull in mode ACTIVE answers once: its instant, or the failure of one of its reads
(41_adpcm.md R157 to R159). -/
theorem pullActive_respondsOnce (src : Source) (s : State) :
    RespondsOnce s (pullActive src s) := by
  rcases pullActive_cases src s with ⟨u, h, hp, -⟩ | ⟨u, mode, why, h, hp, -⟩
  · exact ⟨u.setBlockCounter (counterAfter s), .ok (emitted u), h, by simp [hp.params],
      by simp [hp.host]⟩
  · exact ⟨u.setMode mode, .failed why, h, by simp [hp.params], by simp [hp.host]⟩

/-- ADPCM.PULL answers once, in every mode in which it has a next state (41_adpcm.md R145, R160). -/
theorem execAdpcmPull_respondsOnce {s t : State} (h : exec .adpcmPull s = .next t) :
    RespondsOnce s t := by
  rcases execAdpcmPull_cases s with ⟨-, e⟩ | ⟨-, e⟩ | ⟨-, -, e⟩ | ⟨src, -, -, e⟩ <;>
    rw [e] at h <;> cases h
  · exact respondsOnce_raise s _
  · exact respondsOnce_raise s _
  · exact pullActive_respondsOnce src s

/-! ### Image commands write nothing but their response (42_image.md R190) -/

/-- IMG.ALPHA: two services, each with its failure, then the merge (42_image.md R191, R192). -/
theorem execImgAlpha_next {jpeg alphaZ : Buffer} {s t : State}
    (h : execImgAlpha jpeg alphaZ s = .next t) : ∃ r, t = s.respond r := by
  unfold execImgAlpha at h
  split at h
  · cases h; exact ⟨_, rfl⟩
  · split at h
    · cases h; exact ⟨_, rfl⟩
    · exact finishImage_next h

/-- The frame of the four transforms of IMG.LOSSLESS (42_image.md R194, R196). -/
theorem lossless_next {width height : Word} {dataZ : Buffer} {pack : Buffer → Nat → Nat → Packed}
    {s t : State} (h : lossless width height dataZ pack s = .next t) : ∃ r, t = s.respond r := by
  unfold lossless at h
  split at h
  · cases h; exact ⟨_, rfl⟩
  · exact finishImage_next h

/-- A recognised format without a transform fails (42_image.md R205, R206). -/
theorem losslessUnsupported_raise (dataZ : Buffer) (s : State) :
    ∃ why, losslessUnsupported dataZ s = s.raise why := by
  unfold losslessUnsupported
  split
  · exact ⟨_, rfl⟩
  · exact ⟨_, rfl⟩

/-- Every image command, on every next state, has written nothing but one response
(42_image.md R190). -/
theorem exec_image_next {i : Instr} {s t : State} (hi : isImageCommand i = true)
    (h : exec i s = .next t) : ∃ r, t = s.respond r := by
  cases i with
  | imgAlpha => exact execImgAlpha_next h
  | imgLosslessV1Rgb32 | imgLosslessV2Rgb32 | imgLosslessV1Cmap8 | imgLosslessV2Cmap8 =>
    exact lossless_next h
  | imgLosslessRgb15 | imgLosslessOtherRgb32 | imgLosslessOtherCmap8 =>
    cases h
    obtain ⟨why, e⟩ := losslessUnsupported_raise _ s
    exact ⟨.failed why, e⟩
  | imgLosslessBadfmt => cases h; exact ⟨_, rfl⟩
  | _ => cases hi

/-! ### Every instruction -/

/-- Every command gives exactly one response and otherwise keeps the host's record and the parameters
(30_encoding.md R85, 70_reset_and_hazards.md R262). -/
theorem exec_command_respondsOnce {i : Instr} {s t : State} (hi : isCommand i = true)
    (h : exec i s = .next t) : RespondsOnce s t := by
  by_cases him : isImageCommand i = true
  · obtain ⟨r, rfl⟩ := exec_image_next him h
    exact ⟨s, r, rfl, rfl, rfl⟩
  · cases i with
    | curBind => cases h; exact ⟨_, _, rfl, by simp, by simp⟩
    | curRdu => cases h; exact cursorRead_respondsOnce _ _ s
    | curRds => cases h; exact cursorRead_respondsOnce _ _ s
    | adpcmInit => exact execAdpcmInit_respondsOnce h
    | adpcmPull => exact execAdpcmPull_respondsOnce h
    | sizeCode | header | code2 | code3 | code4 | code5 => cases hi
    | _ => exact absurd rfl him

/-- A stream element always runs, and writes neither the parameters nor the host's record: the
command that fetched it answers (10_state.md R28, R32). -/
theorem exec_element_next {i : Instr} (hi : isCommand i = false) (s : State) :
    ∃ t, exec i s = .next t ∧ t.params = s.params ∧ t.host = s.host := by
  cases i with
  | sizeCode => exact ⟨_, rfl, applySizeCode_params _ s, applySizeCode_host _ s⟩
  | header => exact ⟨_, rfl, by simp [applyHeaderIndex, applyHeaderSample],
      by simp [applyHeaderIndex, applyHeaderSample]⟩
  | code2 | code3 | code4 | code5 =>
    exact ⟨_, rfl, applyCode_params _ _ _ _ s, applyCode_host _ _ _ _ s⟩
  | _ => cases hi

/-- Every instruction keeps the parameters and what the host has yet to issue, and gives at most one
response. -/
theorem exec_atMostOneResponse {i : Instr} {s t : State} (h : exec i s = .next t) :
    t.params = s.params ∧ t.host.program = s.host.program ∧
      (t.host.responses = s.host.responses ∨
        ∃ r, t.host.responses = s.host.responses ++ [r]) := by
  cases hi : isCommand i
  case true =>
    obtain ⟨u, r, rfl, hp, hh⟩ := exec_command_respondsOnce hi h
    exact ⟨hp, by simp [hh], .inr ⟨r, by simp [hh]⟩⟩
  case false =>
    obtain ⟨t', e, hp, hh⟩ := exec_element_next hi s
    cases e.symm.trans h
    exact ⟨hp, by rw [hh], .inl (by rw [hh])⟩

/-- Settles O12, by the host's next event. -/
theorem stepTakesOneHostEvent : Obligations.StepTakesOneHostEvent := by
  intro s t h
  rcases hp : s.host.program with _ | ⟨⟨w, operands⟩ | _, rest⟩
  · rw [step_of_idle hp] at h
    cases h
    exact ⟨rfl, hp, .inl rfl⟩
  · rcases hd : decode (.command w operands) with e | i
    · rw [step_of_rejected hp hd] at h
      cases h
      exact ⟨rfl, rfl, .inr ⟨_, rfl⟩⟩
    · rw [step_of_decoded hp hd] at h
      exact exec_atMostOneResponse h
  · rw [step_of_reset hp] at h
    cases h
    exact ⟨rfl, rfl, .inl rfl⟩

end Sys2Proof.Machine
end

section
/-!
PROOFS of 10_state.md: the reset state, what each instruction writes, the channels after a pull, and
the invariant that every step keeps.
-/

namespace Sys2Proof.Machine

/-! ### The state after reset -/

/-- The default `STEP_TABLE` rises; each entry is compared with the next one alone
(41_adpcm.md R140, R142). -/
theorem defaultStepTable_rising : defaultStepTable.Pairwise (· < ·) :=
  List.isChain_iff_pairwise.mp (by simp [defaultStepTable])

/-- The default tables meet the constraints on the tables (41_adpcm.md R140 to R142). -/
theorem defaultParams_tablesMeetR142 : TablesMeetR142 defaultParams where
  stepLength := rfl
  stepRising := defaultStepTable_rising
  stepFirst := rfl
  stepLast := rfl
  indexLength size := by cases size <;> rfl

/-- Settles O8: but for the tables, each value is the one `State.reset` writes out. -/
theorem resetStateHasTheValuesOfTheTable : Obligations.ResetStateHasTheValuesOfTheTable :=
  ⟨rfl, rfl, rfl, rfl, defaultParams_tablesMeetR142, rfl⟩

/-- A channel without values is in range (10_state.md R27). -/
theorem channelInRange_noValue : ChannelInRange .noValue := ⟨nofun, nofun⟩

/-- The invariant speaks of the cursor and the session alone. -/
theorem LegalState.congr {s t : State} (h : LegalState s) (hc : t.cursor = s.cursor)
    (ha : t.adpcm = s.adpcm) : LegalState t := by
  have hch : ∀ c, t.channel c = s.channel c := fun c => by cases c <;> simp [ha]
  exact ⟨hc ▸ h.cursor, ha ▸ h.counter, ha ▸ h.left, ha ▸ h.right,
    by rw [hc, ha]; exact h.bound, by simp only [ha, hch]; exact h.present⟩

/-- Without an ACTIVE session the invariant is the ranges of the fields (10_state.md R22, R26,
R27). -/
theorem legalState_of_inactive {s : State} (hm : s.adpcm.mode ≠ .active)
    (hc : CursorInRange s.cursor) (hn : s.adpcm.blockCounter ≤ 4094)
    (hl : ChannelInRange s.adpcm.left) (hr : ChannelInRange s.adpcm.right) : LegalState s :=
  ⟨hc, hn, hl, hr, fun h => absurd h hm, fun h => absurd h hm⟩

/-- The reset values meet the invariant, whatever the parameters and the host (10_state.md R36). -/
theorem legalState_of_reset {s : State} (hc : s.cursor = .reset) (ha : s.adpcm = .reset) :
    LegalState s := by
  have hcur : CursorInRange .reset := ⟨Nat.zero_le 7, rfl⟩
  exact legalState_of_inactive (by rw [ha]; decide) (hc ▸ hcur) (by rw [ha]; decide)
    (ha ▸ channelInRange_noValue) (ha ▸ channelInRange_noValue)

/-- Settles O9: the reset state holds the reset values. -/
theorem resetMeetsTheInvariant : Obligations.ResetMeetsTheInvariant :=
  legalState_of_reset rfl rfl

/-! ### The outcomes of a cursor read and of ADPCM.INIT -/

/-- CUR.RDU and CUR.RDS fail with no change, or read the bound source and move inside it
(40_cursor.md R122 to R127). -/
theorem cursorRead_cases (n : BitVec 6) (view : Nat → Word) (s : State) :
    (∃ why, cursorRead n view s = s.raise why) ∨
    (∃ src p v, s.cursor.src = some src ∧ p ≤ 8 * src.length ∧
      cursorRead n view s = (s.moveTo p).answer (.value v)) := by
  unfold cursorRead
  split
  · rcases hs : s.cursor.src with _ | src
    · exact .inl ⟨_, rfl⟩
    · rcases h : readBits src n.toNat s with ⟨v, t⟩ | _ | _
      · obtain ⟨hp, -, -, rfl⟩ := readBits_ok h
        exact .inr ⟨src, _, view v, rfl, hp, by simp only [h]⟩
      · exact .inl ⟨.endOfStream, by simp only [h]⟩
      · exact .inl ⟨.sourceFault, by simp only [h]⟩
  · exact .inl ⟨_, rfl⟩

@[simp] theorem State.openSession_cursor (s : State) (nch : ChannelCount) (src : Source)
    (rate : Word) :
    (s.openSession nch src rate).cursor = { src := some src, byteOff := 0, bitOff := 0 } := rfl

/-- A session whose size code was read: ACTIVE at a block start, the cursor past the code
(41_adpcm.md R144). -/
def State.startSession (s : State) (nch : ChannelCount) (src : Source) (rate : Word)
    (cc : BitVec 2) : State :=
  ((applySizeCode cc ((s.openSession nch src rate).moveTo 2)).setBlockCounter 0).setMode .active

/-- ADPCM.INIT ends the session it opened, its read having failed, or starts it
(41_adpcm.md R144). -/
theorem execAdpcmInit_cases (nch : ChannelCount) (src : Source) (rate : Word) (s : State) :
    (∃ mode why, EndedBy mode why ∧
      exec (.adpcmInit nch src rate) s =
        .next (((s.openSession nch src rate).setMode mode).raise why)) ∨
    (∃ cc b, 2 ≤ 8 * src.length ∧
      exec (.adpcmInit nch src rate) s =
        .next ((s.startSession nch src rate cc).answer (.bps b))) := by
  rcases h : readBits src 2 (s.openSession nch src rate) with ⟨v, t⟩ | _ | _
  · obtain ⟨hp, -, -, rfl⟩ := readBits_ok h
    exact .inr ⟨_, _, by simpa [Cursor.pos] using hp, by simp only [exec, execAdpcmInit, h]; rfl⟩
  · exact .inl ⟨_, _, .inl ⟨rfl, rfl⟩, by simp only [exec, execAdpcmInit, h]⟩
  · exact .inl ⟨_, _, .inr ⟨rfl, rfl⟩, by simp only [exec, execAdpcmInit, h]⟩

/-! ### What instructions write -/

/-- CUR.RDU and CUR.RDS write the position alone (10_state.md R32). -/
theorem cursorRead_frame (n : BitVec 6) (view : Nat → Word) (s : State) :
    (cursorRead n view s).cursor.src = s.cursor.src ∧ (cursorRead n view s).adpcm = s.adpcm := by
  rcases cursorRead_cases n view s with ⟨why, e⟩ | ⟨src, p, v, -, -, e⟩
  · rw [e]; exact ⟨rfl, rfl⟩
  · rw [e]; exact ⟨rfl, rfl⟩

/-- ADPCM.PULL keeps the source and the session's format (10_state.md R32). -/
theorem execAdpcmPull_frame {s t : State} (h : exec .adpcmPull s = .next t) :
    t.cursor.src = s.cursor.src ∧ t.adpcm.nch = s.adpcm.nch ∧ t.adpcm.rate = s.adpcm.rate ∧
      t.adpcm.bps = s.adpcm.bps := by
  rcases execAdpcmPull_cases s with ⟨-, e⟩ | ⟨-, e⟩ | ⟨-, -, e⟩ | ⟨src, -, -, e⟩ <;>
    rw [e] at h <;> cases h
  · exact ⟨rfl, rfl, rfl, rfl⟩
  · exact ⟨rfl, rfl, rfl, rfl⟩
  · rcases pullActive_cases src s with ⟨u, e, hp, -⟩ | ⟨u, mode, why, e, hp, -⟩ <;> rw [e] <;>
      exact ⟨hp.source, hp.nch, hp.rate, hp.bps⟩

/-- A header and a code write their channel alone, which is progress over any source
(10_state.md R32, 41_adpcm.md R146, R148). -/
theorem exec_channelElement {i : Instr} {s t : State} (hi : isCommand i = false)
    (hn : ∀ cc, i ≠ .sizeCode cc) (h : exec i s = .next t) (src : Source) :
    t.cursor = s.cursor ∧ Progress src s t := by
  cases i with
  | sizeCode cc => exact absurd rfl (hn cc)
  | header c smp k =>
    cases h
    exact ⟨by simp [applyHeaderIndex, applyHeaderSample],
      (progress_headerSample c smp s).trans (progress_headerIndex c k _)⟩
  | code2 | code3 | code4 | code5 =>
    cases h
    exact ⟨applyCode_cursor _ _ _ _ s, progress_applyCode _ _ _ _ s⟩
  | _ => cases hi

/-- No stream element writes the cursor, the host's record, or what an element does not carry of the
session (10_state.md R32). -/
theorem exec_element_frame {i : Instr} {s t : State} (hi : isCommand i = false)
    (h : exec i s = .next t) :
    t.cursor = s.cursor ∧ t.host = s.host ∧ t.adpcm.mode = s.adpcm.mode ∧
      t.adpcm.nch = s.adpcm.nch ∧ t.adpcm.rate = s.adpcm.rate ∧
      t.adpcm.blockCounter = s.adpcm.blockCounter := by
  by_cases hs : ∃ cc, i = .sizeCode cc
  · obtain ⟨cc, rfl⟩ := hs
    cases h
    exact ⟨rfl, rfl, rfl, rfl, rfl, rfl⟩
  · obtain ⟨hc, hp⟩ := exec_channelElement hi (fun cc e => hs ⟨cc, e⟩) h []
    exact ⟨hc, hp.host, hp.mode, hp.nch, hp.rate, hp.counter⟩

/-- Settles O13, from the frame of each kind of instruction. -/
theorem fieldsAreWrittenOnlyByTheirRules : Obligations.FieldsAreWrittenOnlyByTheirRules := by
  intro i s t h
  refine ⟨(exec_atMostOneResponse h).1, fun hi => ?image, ?read, ?bind, ?pull,
    fun hi => exec_element_frame hi h, ?size,
    fun hi hn => (exec_channelElement hi hn h []).2.bps⟩
  case image =>
    obtain ⟨r, rfl⟩ := exec_image_next hi h
    exact ⟨rfl, rfl⟩
  case read => rintro ⟨n, rfl | rfl⟩ <;> cases h <;> exact cursorRead_frame n _ s
  case bind => rintro src rfl; cases h; rfl
  case pull => rintro rfl; exact execAdpcmPull_frame h
  case size => rintro cc rfl; cases h; exact ⟨rfl, rfl⟩

/-! ### The channels after a pull -/

/-- A failed pull does not answer OK: the response it adds is the failure. -/
theorem raise_ne_answered {s u : State} {why : Failure} {payload : Payload}
    (hu : u.host = s.host) :
    (u.raise why).host.responses ≠ s.host.responses ++ [.ok payload] := by
  simp [hu]

/-- Settles O33: a pull that answers OK has emitted an instant, and then every channel is set. -/
theorem okPullsLeaveSamplesAndIndicesInRange :
    Obligations.OkPullsLeaveSamplesAndIndicesInRange := by
  intro s t payload h hr
  rcases execAdpcmPull_cases s with ⟨-, e⟩ | ⟨-, e⟩ | ⟨-, -, e⟩ | ⟨src, -, -, e⟩ <;>
    rw [e] at h <;> cases h
  · exact absurd hr (raise_ne_answered rfl)
  · exact absurd hr (raise_ne_answered rfl)
  · rcases pullActive_cases src s with ⟨u, e, hp, hset⟩ | ⟨u, mode, why, e, hp, -⟩ <;>
      rw [e] at hr ⊢
    · intro c hc
      have hn : (u.emitInstant (counterAfter s)).adpcm.nch = s.adpcm.nch := hp.nch
      simpa [State.emitInstant, ChannelSet] using hset c (hn ▸ hc)
    · exact absurd hr (raise_ne_answered (by simp [hp.host]))

/-! ### The operations keep the invariant -/

/-- A position inside the bound source is one of the cursor (10_state.md R22). -/
theorem cursorInRange_of_le {src : Source} {p : Nat} (h : p ≤ 8 * src.length) :
    CursorInRange { src := some src, byteOff := p / 8, bitOff := p % 8 } :=
  ⟨Nat.le_of_lt_succ (Nat.mod_lt p (by decide)), by simpa using h⟩

theorem LegalState.respond {s : State} (h : LegalState s) (r : Response) :
    LegalState (s.respond r) := h.congr rfl rfl

theorem LegalState.issued {s : State} (h : LegalState s) (rest : List HostEvent) :
    LegalState (s.issued rest) := h.congr rfl rfl

/-- A read inside the bound source keeps the invariant (10_state.md R22). -/
theorem LegalState.moveTo {s : State} {src : Source} {p : Nat} (h : LegalState s)
    (hs : s.cursor.src = some src) (hp : p ≤ 8 * src.length) : LegalState (s.moveTo p) where
  cursor := by rw [State.moveTo_cursor, hs]; exact cursorInRange_of_le hp
  counter := h.counter
  left := h.left
  right := h.right
  bound := h.bound
  present := by simpa using h.present

/-- A session that ends or faults keeps the invariant (10_state.md R23). -/
theorem LegalState.setMode {s : State} {mode : Mode} (h : LegalState s) (hm : mode ≠ .active) :
    LegalState (s.setMode mode) :=
  legalState_of_inactive hm h.cursor h.counter h.left h.right

/-- A size code keeps the invariant (10_state.md R25). -/
theorem LegalState.setBps {s : State} (h : LegalState s) (size : CodeSize) :
    LegalState (s.setBps size) where
  cursor := h.cursor
  counter := h.counter
  left := h.left
  right := h.right
  bound := h.bound
  present := by simpa using h.present

/-- The counter may leave 0 when the session's channels hold values (10_state.md R26, R27). -/
theorem LegalState.setBlockCounter {s : State} {n : Nat} (h : LegalState s) (hn : n ≤ 4094)
    (hp : ∀ c ∈ channelsOf s.adpcm.nch, ChannelPresent (s.channel c)) :
    LegalState (s.setBlockCounter n) where
  cursor := h.cursor
  counter := hn
  left := h.left
  right := h.right
  bound := h.bound
  present _ _ := by simpa using hp

/-- The elements of a pull leave the position inside the source (10_state.md R22). -/
theorem Progress.cursorInRange {src : Source} {s u : State} (hp : Progress src s u)
    (hs : s.cursor.src = some src) (h : CursorInRange s.cursor) : CursorInRange u.cursor := by
  rcases hp.position with e | ⟨p, hle, e⟩
  · rwa [e]
  · rw [e, hs]; exact cursorInRange_of_le hle

/-- The elements of a pull keep the invariant, where the cursor stays in range. -/
theorem LegalState.progress {src : Source} {s u : State} (h : LegalState s)
    (hp : Progress src s u) (hc : CursorInRange u.cursor) : LegalState u where
  cursor := hc
  counter := hp.counter ▸ h.counter
  left := hp.inRange .left h.left
  right := hp.inRange .right h.right
  bound := by rw [hp.mode, hp.source]; exact h.bound
  present := by
    rw [hp.mode, hp.counter, hp.nch]
    exact fun hm hn c hcn => hp.present c (h.present hm hn c hcn)

/-- The counter that a pull leaves is one of 0..4094 (10_state.md R26). -/
theorem counterAfter_le (s : State) : counterAfter s ≤ 4094 := by
  unfold counterAfter
  split
  · decide
  · exact Nat.le_of_lt_succ (Nat.mod_lt _ (by decide))

/-- A failed read leaves no ACTIVE session (41_adpcm.md R158, R159). -/
theorem EndedBy.ne_active {mode : Mode} {why : Failure} (h : EndedBy mode why) :
    mode ≠ .active := by
  rcases h with ⟨rfl, -⟩ | ⟨rfl, -⟩ <;> decide

/-! ### The instructions keep the invariant -/

/-- CUR.BIND: no session is left, and the cursor is at the start of its source
(40_cursor.md R121). -/
theorem LegalState.of_curBind {s t : State} {src : Source} (h : LegalState s)
    (ht : exec (.curBind src) s = .next t) : LegalState t := by
  cases ht
  exact (legalState_of_inactive (s := (s.bindSource src).setMode .uninit) (by simp)
    (cursorInRange_of_le (Nat.zero_le _)) h.counter h.left h.right).respond _

theorem LegalState.of_cursorRead {s : State} (h : LegalState s) (n : BitVec 6) (view : Nat → Word) :
    LegalState (cursorRead n view s) := by
  rcases cursorRead_cases n view s with ⟨why, e⟩ | ⟨src, p, v, hs, hp, e⟩
  · rw [e]; exact h.respond _
  · rw [e]; exact (h.moveTo hs hp).respond _

/-- ADPCM.INIT takes away the channels' values, which an ACTIVE session at a block start need not
have (41_adpcm.md R144). -/
theorem LegalState.of_adpcmInit {s t : State} {nch : ChannelCount} {src : Source} {rate : Word}
    (h : LegalState s) (ht : exec (.adpcmInit nch src rate) s = .next t) : LegalState t := by
  rcases execAdpcmInit_cases nch src rate s with ⟨mode, why, he, e⟩ | ⟨cc, b, hl, e⟩ <;>
    rw [e] at ht <;> cases ht
  · exact (legalState_of_inactive (s := (s.openSession nch src rate).setMode mode) he.ne_active
      (cursorInRange_of_le (Nat.zero_le _)) h.counter
      channelInRange_noValue channelInRange_noValue).respond _
  · exact LegalState.respond (s := s.startSession nch src rate cc)
      { cursor := cursorInRange_of_le hl
        counter := Nat.zero_le _
        left := channelInRange_noValue
        right := channelInRange_noValue
        bound := fun _ => nofun
        present := fun _ hn => absurd rfl hn } _

/-- A pull in mode ACTIVE: its elements keep the invariant, an instant comes with values in every
channel, and a failed read ends the session (41_adpcm.md R156 to R159). -/
theorem LegalState.of_pullActive {s : State} {src : Source} (h : LegalState s)
    (hs : s.cursor.src = some src) : LegalState (pullActive src s) := by
  rcases pullActive_cases src s with ⟨u, e, hp, hset⟩ | ⟨u, mode, why, e, hp, he⟩ <;> rw [e]
  all_goals have hu : LegalState u := h.progress hp (hp.cursorInRange hs h.cursor)
  · exact (hu.setBlockCounter (counterAfter_le s)
      (by rw [hp.nch]; exact fun c hc => (hset c hc).present)).respond _
  · exact (hu.setMode he.ne_active).respond _

theorem LegalState.of_adpcmPull {s t : State} (h : LegalState s)
    (ht : exec .adpcmPull s = .next t) : LegalState t := by
  rcases execAdpcmPull_cases s with ⟨-, e⟩ | ⟨-, e⟩ | ⟨-, -, e⟩ | ⟨src, -, hs, e⟩ <;>
    rw [e] at ht <;> cases ht
  · exact h.respond _
  · exact h.respond _
  · exact h.of_pullActive hs

/-- A stream element keeps the invariant wherever it runs (10_state.md R28). -/
theorem LegalState.of_element {i : Instr} {s t : State} (h : LegalState s)
    (hi : isCommand i = false) (ht : exec i s = .next t) : LegalState t := by
  by_cases hs : ∃ cc, i = .sizeCode cc
  · obtain ⟨cc, rfl⟩ := hs
    cases ht
    exact h.setBps _
  · obtain ⟨hc, hp⟩ := exec_channelElement hi (fun cc e => hs ⟨cc, e⟩) ht []
    exact h.progress hp (hc ▸ h.cursor)

/-- Every instruction keeps the invariant, an image command because it writes its response alone. -/
theorem LegalState.of_exec {i : Instr} {s t : State} (h : LegalState s) (ht : exec i s = .next t) :
    LegalState t := by
  by_cases him : isImageCommand i = true
  · obtain ⟨r, rfl⟩ := exec_image_next him ht
    exact h.respond r
  · cases i with
    | curBind => exact h.of_curBind ht
    | curRdu | curRds => cases ht; exact h.of_cursorRead _ _
    | adpcmInit => exact h.of_adpcmInit ht
    | adpcmPull => exact h.of_adpcmPull ht
    | sizeCode | header | code2 | code3 | code4 | code5 => exact h.of_element rfl ht
    | _ => exact absurd rfl him

/-- Settles O10, by the host's next event. -/
theorem everyStepKeepsTheInvariant : Obligations.EveryStepKeepsTheInvariant := by
  intro s t h ht
  rcases hp : s.host.program with _ | ⟨⟨w, operands⟩ | _, rest⟩
  · rw [step_of_idle hp] at ht
    cases ht
    exact h
  · rcases hd : decode (.command w operands) with e | i
    · rw [step_of_rejected hp hd] at ht
      cases ht
      exact (h.issued rest).respond _
    · rw [step_of_decoded hp hd] at ht
      exact (h.issued rest).of_exec ht
  · rw [step_of_reset hp] at ht
    cases ht
    exact legalState_of_reset rfl rfl

end Sys2Proof.Machine
end

section
/-!
PROOFS of 30_encoding.md: the opcode map as a relation that decoder and encoder both meet, the
stream elements, the causes of IllegalCommand, what every response carries, and the bits of a block.
-/

namespace Sys2Proof.Machine

/-! ### The fields of a command word (30_encoding.md R81) -/

/-- A word is its opcode and its low 24 bits. -/
theorem word_eq_op_fields (w : Word) :
    w.toNat = wordField w 31 24 * 2 ^ 24 + wordField w 23 0 := by
  have := w.isLt
  simp only [wordField]; omega

/-- The low 24 bits as a reserved part and a 6-bit field: CUR.RDU and CUR.RDS. -/
theorem wordField_split_width (w : Word) :
    wordField w 23 0 = wordField w 23 6 * 64 + wordField w 5 0 := by
  simp only [wordField]; omega

/-- The low 24 bits as a reserved part and one bit: ADPCM.INIT. -/
theorem wordField_split_count (w : Word) :
    wordField w 23 0 = wordField w 23 1 * 2 + wordField w 0 0 := by
  simp only [wordField]; omega

/-- The low 24 bits as three bytes: IMG.LOSSLESS. -/
theorem wordField_split_bytes (w : Word) :
    wordField w 23 0 =
      wordField w 23 16 * 0x10000 + wordField w 15 8 * 0x100 + wordField w 7 0 := by
  simp only [wordField]; omega

theorem wordField_lt (w : Word) (hi lo : Nat) : wordField w hi lo < 2 ^ (hi + 1 - lo) :=
  Nat.mod_lt _ (Nat.two_pow_pos _)

/-! ### The rows of the opcode map -/

/-- ADPCM.INIT's field `S` (30_encoding.md R81). -/
def countField : ChannelCount → Nat
  | .mono => 0
  | .stereo => 1

/-- The opcode map as a relation: the word has the row's opcode, its reserved bits are 0, the
operands have the row's kinds, and the fields are the instruction's (30_encoding.md R81 to R83). -/
inductive CommandRow (w : Word) : List Operand → Instr → Prop where
  | curBind (src : Source) (op : wordField w 31 24 = 0x01) (reserved : wordField w 23 0 = 0) :
    CommandRow w [.source src] (.curBind src)
  | curRdu (n : BitVec 6) (op : wordField w 31 24 = 0x02) (reserved : wordField w 23 6 = 0)
      (width : wordField w 5 0 = n.toNat) : CommandRow w [] (.curRdu n)
  | curRds (n : BitVec 6) (op : wordField w 31 24 = 0x03) (reserved : wordField w 23 6 = 0)
      (width : wordField w 5 0 = n.toNat) : CommandRow w [] (.curRds n)
  | adpcmInit (nch : ChannelCount) (src : Source) (rate : Word) (op : wordField w 31 24 = 0x10)
      (reserved : wordField w 23 1 = 0) (count : wordField w 0 0 = countField nch) :
    CommandRow w [.source src, .word rate] (.adpcmInit nch src rate)
  | adpcmPull (op : wordField w 31 24 = 0x11) (reserved : wordField w 23 0 = 0) :
    CommandRow w [] .adpcmPull
  | imgAlpha (jpeg alphaZ : Buffer) (op : wordField w 31 24 = 0x20)
      (reserved : wordField w 23 0 = 0) :
    CommandRow w [.buffer jpeg, .buffer alphaZ] (.imgAlpha jpeg alphaZ)
  | imgLossless (ncol ver fmt : Byte) (width height : Word) (dataZ : Buffer)
      (op : wordField w 31 24 = 0x21) (colors : wordField w 23 16 = ncol.toNat)
      (version : wordField w 15 8 = ver.toNat) (format : wordField w 7 0 = fmt.toNat) :
    CommandRow w [.word width, .word height, .buffer dataZ]
      (selectLossless ncol ver fmt width height dataZ)

/-- A one-bit field is a channel count. -/
theorem wordField_count (w : Word) :
    wordField w 0 0 = countField (if wordField w 0 0 = 1 then .stereo else .mono) := by
  have := wordField_lt w 0 0
  split <;> simp only [countField] <;> omega

/-- A channel count is read back from its field. -/
theorem countField_inv (nch : ChannelCount) :
    (if countField nch = 1 then ChannelCount.stereo else .mono) = nch := by
  cases nch <;> rfl

/-- A field as wide as its bit vector is that bit vector's number. -/
theorem wordField_ofNat (w : Word) {n hi lo : Nat} (h : hi + 1 - lo = n) :
    wordField w hi lo = (BitVec.ofNat n (wordField w hi lo)).toNat := by
  subst h
  rw [BitVec.toNat_ofNat, Nat.mod_eq_of_lt (wordField_lt w hi lo)]

/-- The decoder is the opcode map. -/
theorem decodeCommand_ok_iff {w : Word} {operands : List Operand} {i : Instr} :
    decodeCommand w operands = .ok i ↔ CommandRow w operands i := by
  constructor
  · intro h
    unfold decodeCommand at h
    split at h
    case h_7 op =>
      split at h <;> cases h
      exact .imgLossless _ _ _ _ _ _ op (wordField_ofNat w rfl) (wordField_ofNat w rfl)
        (wordField_ofNat w rfl)
    case h_8 => cases h
    all_goals
      rename_i op
      split at h
      · cases h
      rename_i hr
      have hr := not_not.mp hr
      split at h <;> cases h
    · exact .curBind _ op hr
    · exact .curRdu _ op hr (wordField_ofNat w rfl)
    · exact .curRds _ op hr (wordField_ofNat w rfl)
    · exact .adpcmInit _ _ _ op hr (wordField_count w)
    · exact .adpcmPull op hr
    · exact .imgAlpha _ _ op hr
  · intro h
    cases h with
    | adpcmInit nch src rate op hr hc => simp [decodeCommand, op, hr, hc, countField_inv]
    | curBind src op hr | adpcmPull op hr | imgAlpha _ _ op hr => simp [decodeCommand, op, hr]
    | curRdu n op hr hn | curRds n op hr hn => simp [decodeCommand, op, hr, hn]
    | imgLossless _ _ _ _ _ _ op hc hv hf => simp [decodeCommand, op, hc, hv, hf]

/-! ### The selection of an IMG.LOSSLESS row (42_image.md R197) -/

/-- The selected row encodes the pair (VER, FMT) that selects it. -/
theorem encode_selectLossless (ncol ver fmt : Byte) (width height : Word) (dataZ : Buffer) :
    encode (selectLossless ncol ver fmt width height dataZ) =
        encodeLossless ncol ver fmt width height dataZ ∧
      WellFormed (selectLossless ncol ver fmt width height dataZ) = true := by
  unfold selectLossless
  split
  · subst fmt
    split
    · subst ver; exact ⟨rfl, rfl⟩
    · split
      · subst ver; exact ⟨rfl, rfl⟩
      · exact ⟨rfl, by simp_all [WellFormed, versionDefined]⟩
  · split
    · subst fmt
      split
      · subst ver; exact ⟨rfl, rfl⟩
      · split
        · subst ver; exact ⟨rfl, rfl⟩
        · exact ⟨rfl, by simp_all [WellFormed, versionDefined]⟩
    · split
      · subst fmt; exact ⟨rfl, rfl⟩
      · exact ⟨rfl, by simp_all [WellFormed, formatKnown]⟩

/-- The word of an IMG.LOSSLESS command is in the row that its pair (VER, FMT) selects. -/
theorem decode_encodeLossless (ncol ver fmt : Byte) (width height : Word) (dataZ : Buffer) :
    decode (encodeLossless ncol ver fmt width height dataZ) =
      .ok (selectLossless ncol ver fmt width height dataZ) := by
  have h1 := ncol.isLt
  have h2 := ver.isLt
  have h3 := fmt.isLt
  refine decodeCommand_ok_iff.mpr (.imgLossless _ _ _ _ _ _ ?_ ?_ ?_ ?_) <;>
    simp only [wordField, BitVec.toNat_ofNat] <;> omega

/-! ### The encoding of a command -/

/-- A word in a row is the encoding of the row's instruction, which is well-formed. -/
theorem CommandRow.encode_eq {w : Word} {operands : List Operand} {i : Instr}
    (h : CommandRow w operands i) : encode i = .command w operands ∧ WellFormed i = true := by
  have hw := word_eq_op_fields w
  have hwidth := wordField_split_width w
  have hcount := wordField_split_count w
  have hbytes := wordField_split_bytes w
  have same : ∀ v : Word, v.toNat = w.toNat → v = w := fun _ => BitVec.eq_of_toNat_eq
  have hlt := w.isLt
  cases h with
  | curBind _ op hr | adpcmPull op hr | imgAlpha _ _ op hr =>
    rw [op, hr] at hw
    exact ⟨congrArg (Encoded.command · _) (same _ hw.symm), rfl⟩
  | curRdu n op hr hn | curRds n op hr hn =>
    refine ⟨congrArg (Encoded.command · _) (same _ ?_), rfl⟩
    rw [op, hwidth, hr, hn] at hw
    rw [BitVec.toNat_ofNat]; omega
  | adpcmInit nch _ _ op hr hc =>
    rw [op, hcount, hr, hc] at hw
    refine ⟨congrArg (Encoded.command · _) (same _ ?_), rfl⟩
    cases nch <;> exact hw.symm
  | imgLossless _ _ _ _ _ _ op hc hv hf =>
    obtain ⟨he, hwf⟩ := encode_selectLossless _ _ _ _ _ _
    refine ⟨he.trans (congrArg (Encoded.command · _) (same _ ?_)), hwf⟩
    rw [op, hbytes, hc, hv, hf] at hw
    rw [BitVec.toNat_ofNat]; omega

/-- A row's instruction is read back from its encoding. -/
theorem CommandRow.decode_encode {w : Word} {operands : List Operand} {i : Instr}
    (h : CommandRow w operands i) : decode (encode i) = .ok i := by
  rw [h.encode_eq.1]
  exact decodeCommand_ok_iff.mpr h

/-- The fields of a word of CUR.RDU or CUR.RDS. -/
theorem readWord_fields (op : Byte) (n : BitVec 6) :
    wordField (BitVec.ofNat 32 (op.toNat * 2 ^ 24 + n.toNat)) 31 24 = op.toNat ∧
      wordField (BitVec.ofNat 32 (op.toNat * 2 ^ 24 + n.toNat)) 23 6 = 0 ∧
      wordField (BitVec.ofNat 32 (op.toNat * 2 ^ 24 + n.toNat)) 5 0 = n.toNat := by
  have h1 := op.isLt
  have h2 := n.isLt
  simp only [wordField, BitVec.toNat_ofNat]; omega

/-! ### The stream elements (30_encoding.md R88 to R91) -/

/-- Sign and magnitude are read back from a code. -/
theorem codeData_fields (size : CodeSize) (sign : Bool) {m : Nat} (h : m < size.signMask) :
    codeSign size (codeData size sign m) = sign ∧
      codeMagnitude size (codeData size sign m) = m := by
  cases size <;> simp [CodeSize.signMask, CodeSize.bits] at h <;> cases sign <;>
    interval_cases m <;> decide

/-- A code's bits fit in its width. -/
theorem codeData_lt (size : CodeSize) (sign : Bool) {m : Nat} (h : m < size.signMask) :
    codeData size sign m < 2 ^ size.bits := by
  have hm : 2 ^ size.bits = size.signMask + size.signMask := by cases size <;> rfl
  rw [hm, codeData]
  split <;> omega

/-- The instruction of a code, by the code's size. -/
def codeInstr (c : Channel) (sign : Bool) (m : Nat) : CodeSize → Instr
  | .b2 => .code2 c sign (BitVec.ofNat 1 m)
  | .b3 => .code3 c sign (BitVec.ofNat 2 m)
  | .b4 => .code4 c sign (BitVec.ofNat 3 m)
  | .b5 => .code5 c sign (BitVec.ofNat 4 m)

/-- A code decodes to its sign and its magnitude. -/
theorem decodeElement_code (size : CodeSize) (c : Channel) {v : Nat} (h : v < 2 ^ size.bits) :
    decodeElement (.code size c) v =
      .ok (codeInstr c (codeSign size v) (codeMagnitude size v) size) := by
  cases size <;> exact if_pos h

/-- A code is encoded from its sign and its magnitude. -/
theorem encode_codeInstr (size : CodeSize) (c : Channel) (sign : Bool) {m : Nat}
    (h : m < size.signMask) :
    encode (codeInstr c sign m size) = .element (.code size c) (codeData size sign m) ∧
      WellFormed (codeInstr c sign m size) = true := by
  have field : codeData size sign (m % size.signMask) = codeData size sign m := by
    rw [Nat.mod_eq_of_lt h]
  cases size <;> exact ⟨congrArg (Encoded.element _) field, rfl⟩

/-- A code is read back from its sign and magnitude. -/
theorem decode_encode_codeInstr (size : CodeSize) (c : Channel) (sign : Bool) {m : Nat}
    (h : m < size.signMask) :
    decode (encode (codeInstr c sign m size)) = .ok (codeInstr c sign m size) := by
  obtain ⟨hs, hm⟩ := codeData_fields size sign h
  rw [(encode_codeInstr size c sign h).1, decode,
    decodeElement_code size c (codeData_lt size sign h), hs, hm]

/-- What an element decodes to has the element's bits as its encoding. -/
theorem encode_of_decodeElement {due : Due} {v : Nat} {i : Instr}
    (h : decodeElement due v = .ok i) : encode i = .element due v ∧ WellFormed i = true := by
  have hv : v < 2 ^ due.width := by
    by_contra hv
    cases h.symm.trans (if_neg hv)
  cases due with
  | sizeCode =>
    cases (if_pos hv).symm.trans h
    exact ⟨congrArg (Encoded.element _) (Nat.mod_eq_of_lt hv), rfl⟩
  | header c =>
    cases (if_pos hv).symm.trans h
    refine ⟨congrArg (Encoded.element _) ?_, rfl⟩
    simp only [Due.width] at hv
    simp only [BitVec.toNat_ofNat]; omega
  | code size c =>
    cases (decodeElement_code size c hv).symm.trans h
    obtain ⟨he, hwf⟩ := encode_codeInstr size c (codeSign size v) (codeMagnitude_lt size hv)
    rw [codeData_split size hv] at he
    exact ⟨he, hwf⟩

/-! ### The statements on encodings -/

/-- Settles O1: a command's word is in the row of its opcode, an element's number is its fields. -/
theorem decodeReadsBackEveryEncoding : Obligations.DecodeReadsBackEveryEncoding := by
  intro i hwf
  cases i with
  | curBind =>
    exact CommandRow.decode_encode (w := 0x01000000) (.curBind _ (by decide) (by decide))
  | curRdu n =>
    obtain ⟨op, reserved, width⟩ := readWord_fields 0x02 n
    exact (CommandRow.curRdu n op reserved width).decode_encode
  | curRds n =>
    obtain ⟨op, reserved, width⟩ := readWord_fields 0x03 n
    exact (CommandRow.curRds n op reserved width).decode_encode
  | adpcmInit nch =>
    cases nch
    · exact CommandRow.decode_encode (w := 0x10000000)
        (.adpcmInit .mono _ _ (by decide) (by decide) (by decide))
    · exact CommandRow.decode_encode (w := 0x10000001)
        (.adpcmInit .stereo _ _ (by decide) (by decide) (by decide))
  | adpcmPull =>
    exact CommandRow.decode_encode (w := 0x11000000) (.adpcmPull (by decide) (by decide))
  | imgAlpha =>
    exact CommandRow.decode_encode (w := 0x20000000) (.imgAlpha _ _ (by decide) (by decide))
  | imgLosslessV1Rgb32 | imgLosslessV2Rgb32 | imgLosslessV1Cmap8 | imgLosslessV2Cmap8
  | imgLosslessRgb15 => exact decode_encodeLossless _ _ _ _ _ _
  | imgLosslessOtherRgb32 | imgLosslessOtherCmap8 =>
    refine (decode_encodeLossless _ _ _ _ _ _).trans ?_
    simp_all [selectLossless, WellFormed, versionDefined]
  | imgLosslessBadfmt =>
    refine (decode_encodeLossless _ _ _ _ _ _).trans ?_
    simp_all [selectLossless, WellFormed, formatKnown]
  | sizeCode cc => simp [encode, decode, decodeElement, Due.width, cc.isLt]
  | header c smp k =>
    have h1 := smp.isLt
    have h2 := k.isLt
    have hv : smp.toNat * 64 + k.toNat < 4194304 := by omega
    have hs : (smp.toNat * 64 + k.toNat) / 64 = smp.toNat := by omega
    have hk : (smp.toNat * 64 + k.toNat) % 64 = k.toNat := by omega
    simp [encode, decode, decodeElement, Due.width, hv, hs, hk]
  | code2 c sign m => simpa [codeInstr] using decode_encode_codeInstr .b2 c sign m.isLt
  | code3 c sign m => simpa [codeInstr] using decode_encode_codeInstr .b3 c sign m.isLt
  | code4 c sign m => simpa [codeInstr] using decode_encode_codeInstr .b4 c sign m.isLt
  | code5 c sign m => simpa [codeInstr] using decode_encode_codeInstr .b5 c sign m.isLt

/-- Settles O2: a word that decodes is in a row, and the row gives it back; likewise an element. -/
theorem decodableWordsAreEncodings : Obligations.DecodableWordsAreEncodings := by
  intro e i h
  cases e with
  | command => exact (decodeCommand_ok_iff.mp h).encode_eq
  | element => exact encode_of_decodeElement h

/-- Settles O3: each word and element is the encoding of its instruction, which O1 reads back. -/
theorem sampleEncodingsDecode : Obligations.SampleEncodingsDecode :=
  have back := decodeReadsBackEveryEncoding
  ⟨back (.curBind []) rfl, back (.curRdu 3) rfl, back (.curRds 4) rfl,
    back (.adpcmInit .stereo [] 22050) rfl, back .adpcmPull rfl, back (.imgAlpha [1] [2]) rfl,
    back (.imgLosslessV1Cmap8 1 3 2 [6]) rfl, back (.sizeCode 2) rfl,
    back (.header .left 1000 20) rfl, back (.code4 .left true 7) rfl⟩

/-- Settles O16, by the table of the status codes. -/
theorem statusCodesAreThoseOfTheTable : Obligations.StatusCodesAreThoseOfTheTable := by
  refine ⟨fun _ => rfl, rfl, rfl, rfl, rfl, rfl, rfl, rfl, rfl, rfl, fun r => ?_⟩
  cases r with
  | ok => exact Nat.zero_le 9
  | failed why => cases why <;> decide

/-! ### What a response carries (30_encoding.md R85) -/

/-- `i` is a cursor read of a width that CUR.RDU and CUR.RDS do not accept (40_cursor.md R127). -/
def IllegalRead (i : Instr) : Prop :=
  ∃ n, (i = .curRdu n ∨ i = .curRds n) ∧ widthLegal n = false

/-- A response that the table of R85 allows the command: an OK one with its payload, IllegalCommand
from a cursor read of illegal width alone (40_cursor.md R127). -/
def ResponseFits (nch : ChannelCount) (i : Instr) : Response → Prop
  | .ok p => PayloadFits nch i p
  | .failed why => why = .illegalCommand → IllegalRead i

/-- `t` follows `s` with one response more, which fits the command. -/
def AnswersFitting (i : Instr) (s t : State) : Prop :=
  ∃ (u : State) (r : Response), t = u.respond r ∧ u.host = s.host ∧ ResponseFits s.adpcm.nch i r

/-- A failure other than IllegalCommand fits every command. -/
theorem responseFits_failed {nch : ChannelCount} {i : Instr} {why : Failure}
    (h : why ≠ .illegalCommand) : ResponseFits nch i (.failed why) :=
  fun e => absurd e h

/-- A failure other than IllegalCommand, after changes that the host does not see. -/
theorem answersFitting_raise {i : Instr} {s u : State} {why : Failure} (hu : u.host = s.host)
    (h : why ≠ .illegalCommand) : AnswersFitting i s (u.raise why) :=
  ⟨u, _, rfl, hu, responseFits_failed h⟩

/-- A failed read is not IllegalCommand (41_adpcm.md R158, R159). -/
theorem EndedBy.ne_illegalCommand {mode : Mode} {why : Failure} (h : EndedBy mode why) :
    why ≠ .illegalCommand := by
  rcases h with ⟨-, rfl⟩ | ⟨-, rfl⟩ <;> decide

/-- CUR.RDU and CUR.RDS answer a value, or IllegalCommand to an illegal width, or another failure
(40_cursor.md R122 to R127). -/
theorem cursorRead_answersFitting {i : Instr} {n : BitVec 6} (hi : i = .curRdu n ∨ i = .curRds n)
    (view : Nat → Word) (s : State) : AnswersFitting i s (cursorRead n view s) := by
  unfold cursorRead
  split
  · split
    · exact answersFitting_raise rfl (by decide)
    · rename_i src _
      rcases h : readBits src n.toNat s with ⟨v, t⟩ | _ | _
      · obtain ⟨-, -, -, rfl⟩ := readBits_ok h
        refine ⟨_, .ok (.value (view v)), rfl, State.moveTo_host _ _, ?_⟩
        rcases hi with rfl | rfl <;> exact ⟨_, rfl⟩
      · exact answersFitting_raise rfl (by decide)
      · exact answersFitting_raise rfl (by decide)
  · rename_i hw
    exact ⟨s, _, rfl, rfl, fun _ => ⟨n, hi, Bool.eq_false_iff.mpr hw⟩⟩

/-- A code size is one of 2..5 (10_state.md R25). -/
theorem CodeSize.bits_bounds (size : CodeSize) : 2 ≤ size.bits ∧ size.bits ≤ 5 := by
  cases size <;> decide

/-- ADPCM.INIT answers the code size it has read, or the failure of that read (41_adpcm.md R144). -/
theorem execAdpcmInit_answersFitting {nch : ChannelCount} {src : Source} {rate : Word} {s t : State}
    (h : execAdpcmInit nch src rate s = .next t) :
    AnswersFitting (.adpcmInit nch src rate) s t := by
  simp only [execAdpcmInit] at h
  rcases hr : readBits src 2 (s.openSession nch src rate) with ⟨v, u⟩ | _ | _ <;>
    simp only [hr] at h <;> cases h
  case ok =>
    obtain ⟨-, -, -, rfl⟩ := readBits_ok hr
    refine ⟨_, _, rfl, by simp, _, rfl, ?_⟩
    have hb := CodeSize.bits_bounds (CodeSize.ofSizeCode (BitVec.ofNat 2 v))
    simp only [applySizeCode, State.setBps_bps, BitVec.toNat_ofNat]
    omega
  case eos => exact answersFitting_raise (by simp) (by decide)
  case fault => exact answersFitting_raise (by simp) (by decide)

/-- An instant has one sample per channel of the session (41_adpcm.md R157). -/
theorem emitted_fits (s : State) : PayloadFits s.adpcm.nch .adpcmPull (emitted s) := by
  rcases h : s.adpcm.nch <;> simp [PayloadFits, emitted, h]

/-- ADPCM.PULL answers an instant, or one of its failures (41_adpcm.md R157 to R160). -/
theorem execAdpcmPull_answersFitting {s t : State} (h : exec .adpcmPull s = .next t) :
    AnswersFitting .adpcmPull s t := by
  rcases execAdpcmPull_cases s with ⟨-, e⟩ | ⟨-, e⟩ | ⟨-, -, e⟩ | ⟨src, -, -, e⟩ <;>
    rw [e] at h <;> cases h
  · exact answersFitting_raise rfl (by decide)
  · exact answersFitting_raise rfl (by decide)
  · rcases pullActive_cases src s with ⟨u, e, hp, -⟩ | ⟨u, mode, why, e, hp, he⟩ <;> rw [e]
    · exact ⟨u.setBlockCounter (counterAfter s), .ok (emitted u), rfl, by simp [hp.host],
        hp.nch ▸ emitted_fits u⟩
    · exact answersFitting_raise (by simp [hp.host]) he.ne_illegalCommand

/-! ### The output of the image commands -/

/-- What packing a block of `w * h` pixels may give: four bytes per pixel, or a failure that is not
IllegalCommand (42_image.md R207, 30_encoding.md R97). -/
def PackedFits (w h : Nat) : Packed → Prop
  | .out buf => buf.length = 4 * w * h
  | .failed why => why ≠ .illegalCommand
  | .tooLarge => True

theorem packPixels_fits (maxBytes w h : Nat) (enough : Bool) {pixel : Nat → Buffer}
    (h4 : ∀ i, (pixel i).length = 4) : PackedFits w h (packPixels maxBytes w h enough pixel) := by
  rcases packPixels_cases maxBytes w h enough pixel with ⟨-, e⟩ | ⟨-, -, e⟩ | ⟨-, -, e⟩ <;> rw [e]
  · exact (by decide : Failure.sizeMismatch ≠ .illegalCommand)
  · trivial
  · exact (flatMap_four_length _ _ h4).trans (Nat.mul_assoc 4 w h).symm

/-- Both ColorMap8 transforms: a palette entry and the fallback are whole pixels
(42_image.md R202 to R204). -/
theorem packCmap8_fits (maxBytes : Nat) (d : Buffer) (w h ncol entryBytes : Nat)
    {entry : Nat → Buffer} {fallback : Buffer} (he : ∀ j, (entry j).length = 4)
    (hf : fallback.length = 4) :
    PackedFits w h (packCmap8 maxBytes d w h ncol entryBytes entry fallback) := by
  simp only [packCmap8]
  split
  · exact (by decide : Failure.sizeMismatch ≠ .illegalCommand)
  · refine packPixels_fits _ _ _ _ fun i => ?_
    unfold cmap8Pixel
    split
    · exact he _
    · exact hf

/-- The image commands that can answer OK (42_image.md R191, R198 to R203). -/
def transforms : Instr → Bool
  | .imgAlpha _ _ => true
  | .imgLosslessV1Rgb32 _ _ _ _ => true
  | .imgLosslessV2Rgb32 _ _ _ _ => true
  | .imgLosslessV1Cmap8 _ _ _ _ => true
  | .imgLosslessV2Cmap8 _ _ _ _ => true
  | _ => false

/-- The payload of such a command is an image. -/
theorem payloadFits_of_transforms {i : Instr} (hi : transforms i = true) {nch : ChannelCount}
    {p : Payload} (h : IsImage p) : PayloadFits nch i p := by
  cases i with
  | imgAlpha | imgLosslessV1Rgb32 | imgLosslessV2Rgb32 | imgLosslessV1Cmap8
  | imgLosslessV2Cmap8 => exact h
  | _ => cases hi

theorem finishImage_answersFitting {i : Instr} (hi : transforms i = true) {s t : State}
    {width height : Word} {p : Packed} (hp : PackedFits width.toNat height.toNat p)
    (h : s.finishImage width height p = .next t) : AnswersFitting i s t := by
  cases p with
  | out buf => cases h; exact ⟨s, _, rfl, rfl, payloadFits_of_transforms hi hp⟩
  | failed why => cases h; exact answersFitting_raise rfl hp
  | tooLarge => cases h

theorem execImgAlpha_answersFitting {jpeg alphaZ : Buffer} {s t : State}
    (h : execImgAlpha jpeg alphaZ s = .next t) : AnswersFitting (.imgAlpha jpeg alphaZ) s t := by
  unfold execImgAlpha at h
  split at h
  · cases h; exact answersFitting_raise rfl (by decide)
  · split at h
    · cases h; exact answersFitting_raise rfl (by decide)
    · exact finishImage_answersFitting rfl (packPixels_fits _ _ _ _ fun _ => rfl) h

theorem lossless_answersFitting {i : Instr} (hi : transforms i = true) {width height : Word}
    {dataZ : Buffer} {pack : Buffer → Nat → Nat → Packed} {s t : State}
    (hp : ∀ d, PackedFits width.toNat height.toNat (pack d width.toNat height.toNat))
    (h : lossless width height dataZ pack s = .next t) : AnswersFitting i s t := by
  unfold lossless at h
  split at h
  · cases h; exact answersFitting_raise rfl (by decide)
  · exact finishImage_answersFitting hi (hp _) h

theorem losslessUnsupported_answersFitting (i : Instr) (dataZ : Buffer) (s : State) :
    AnswersFitting i s (losslessUnsupported dataZ s) := by
  unfold losslessUnsupported
  split
  · exact answersFitting_raise rfl (by decide)
  · exact answersFitting_raise rfl (by decide)

/-- Every command answers once, and its response fits it. -/
theorem exec_answersFitting {i : Instr} {s t : State} (hi : isCommand i = true)
    (h : exec i s = .next t) : AnswersFitting i s t := by
  cases i with
  | curBind => cases h; exact ⟨_, _, rfl, by simp, rfl⟩
  | curRdu => cases h; exact cursorRead_answersFitting (.inl rfl) _ s
  | curRds => cases h; exact cursorRead_answersFitting (.inr rfl) _ s
  | adpcmInit => exact execAdpcmInit_answersFitting h
  | adpcmPull => exact execAdpcmPull_answersFitting h
  | imgAlpha => exact execImgAlpha_answersFitting h
  | imgLosslessV1Rgb32 | imgLosslessV2Rgb32 =>
    exact lossless_answersFitting rfl (fun _ => packPixels_fits _ _ _ _ fun _ => rfl) h
  | imgLosslessV1Cmap8 | imgLosslessV2Cmap8 =>
    exact lossless_answersFitting rfl (fun _ => packCmap8_fits _ _ _ _ _ _ (fun _ => rfl) rfl) h
  | imgLosslessRgb15 | imgLosslessOtherRgb32 | imgLosslessOtherCmap8 =>
    cases h; exact losslessUnsupported_answersFitting _ _ s
  | imgLosslessBadfmt => cases h; exact answersFitting_raise rfl (by decide)
  | sizeCode | header | code2 | code3 | code4 | code5 => cases hi

/-- Settles O14: the one response of a command fits it. -/
theorem everyCommandGivesOneFittingResponse : Obligations.EveryCommandGivesOneFittingResponse := by
  intro i s t hi h
  obtain ⟨u, r, rfl, hu, hr⟩ := exec_answersFitting hi h
  refine ⟨r, by simp [hu], by simp [hu], ?_⟩
  rintro p rfl
  exact hr

/-! ### The causes of IllegalCommand (30_encoding.md R84) -/

/-- A field is 0 exactly when all its bits are. -/
theorem wordField_eq_zero_iff (w : Word) (hi lo : Nat) :
    wordField w hi lo = 0 ↔ ∀ j, lo ≤ j → j ≤ hi → w.getLsbD j = false := by
  constructor
  · intro h j hl hj
    have hbit := congrArg (Nat.testBit · (j - lo)) h
    simp only [wordField, Nat.testBit_mod_two_pow, Nat.testBit_div_two_pow,
      Nat.zero_testBit] at hbit
    rwa [Nat.sub_add_cancel hl, decide_eq_true (by omega), Bool.true_and] at hbit
  · intro h
    refine Nat.eq_of_testBit_eq fun j => ?_
    simp only [wordField, Nat.testBit_mod_two_pow, Nat.testBit_div_two_pow, Nat.zero_testBit]
    by_cases hj : j < hi + 1 - lo
    · rw [decide_eq_true hj, Bool.true_and]
      exact h (j + lo) (by omega) (by omega)
    · rw [decide_eq_false hj, Bool.false_and]

/-- A word has none of the bits `lo` to `hi` exactly when that field is 0. -/
theorem and_mask_eq_zero_iff (w : Word) {mask : Word} (hi lo : Nat)
    (hm : ∀ j < 32, mask.getLsbD j = decide (lo ≤ j ∧ j ≤ hi)) (hh : hi < 32) :
    w &&& mask = 0 ↔ wordField w hi lo = 0 := by
  rw [wordField_eq_zero_iff]
  constructor
  · intro h j hl hj
    have hbit := congrArg (BitVec.getLsbD · j) h
    simpa [hm j (by omega), hl, hj] using hbit
  · intro h
    refine BitVec.eq_of_getLsbD_eq fun j hj => ?_
    by_cases hin : lo ≤ j ∧ j ≤ hi
    · simp [h j hin.1 hin.2]
    · simp [hm j hj, hin]

/-- The reserved bits of a word without a field (30_encoding.md R81). -/
theorem reserved_all (w : Word) : w &&& 0x00FFFFFF = 0 ↔ wordField w 23 0 = 0 :=
  and_mask_eq_zero_iff w 23 0 (by decide) (by decide)

/-- The reserved bits beside a width (30_encoding.md R81). -/
theorem reserved_width (w : Word) : w &&& 0x00FFFFC0 = 0 ↔ wordField w 23 6 = 0 :=
  and_mask_eq_zero_iff w 23 6 (by decide) (by decide)

/-- The reserved bits beside a channel count (30_encoding.md R81). -/
theorem reserved_count (w : Word) : w &&& 0x00FFFFFE = 0 ↔ wordField w 23 1 = 0 :=
  and_mask_eq_zero_iff w 23 1 (by decide) (by decide)

theorem opNumber_eq (w : Word) : opNumber w = wordField w 31 24 := by
  have := w.isLt
  simp only [opNumber, wordField]; omega

/-- The operand lists of one source: CUR.BIND (30_encoding.md R82). -/
theorem kinds_source {operands : List Operand} (h : operands.map kindOf = [.source]) :
    ∃ src, operands = [.source src] := by
  match operands, h with
  | [.source src], _ => exact ⟨src, rfl⟩

/-- The operand lists of ADPCM.INIT (30_encoding.md R82). -/
theorem kinds_source_word {operands : List Operand}
    (h : operands.map kindOf = [.source, .word]) :
    ∃ src rate, operands = [.source src, .word rate] := by
  match operands, h with
  | [.source src, .word rate], _ => exact ⟨src, rate, rfl⟩

/-- The operand lists of IMG.ALPHA (30_encoding.md R82). -/
theorem kinds_buffer_buffer {operands : List Operand}
    (h : operands.map kindOf = [.buffer, .buffer]) :
    ∃ jpeg alphaZ, operands = [.buffer jpeg, .buffer alphaZ] := by
  match operands, h with
  | [.buffer jpeg, .buffer alphaZ], _ => exact ⟨jpeg, alphaZ, rfl⟩

/-- The operand lists of IMG.LOSSLESS (30_encoding.md R82). -/
theorem kinds_word_word_buffer {operands : List Operand}
    (h : operands.map kindOf = [.word, .word, .buffer]) :
    ∃ width height dataZ, operands = [.word width, .word height, .buffer dataZ] := by
  match operands, h with
  | [.word width, .word height, .buffer dataZ], _ => exact ⟨width, height, dataZ, rfl⟩

/-- The illegal widths, in the low six bits of the word (30_encoding.md R84). -/
theorem widthLegal_eq_false_iff {w : Word} {n : BitVec 6} (h : wordField w 5 0 = n.toNat) :
    widthLegal n = false ↔ w.toNat % 64 = 0 ∨ 32 < w.toNat % 64 := by
  have hw : w.toNat % 64 = n.toNat := by simpa [wordField] using h
  rw [hw]
  simp [widthLegal]
  omega

/-- No row of IMG.LOSSLESS is such a read. -/
theorem selectLossless_not_illegalRead (ncol ver fmt : Byte) (width height : Word)
    (dataZ : Buffer) : ¬ IllegalRead (selectLossless ncol ver fmt width height dataZ) := by
  unfold selectLossless
  split_ifs <;> simp [IllegalRead]

/-- A word in a row has the row's entry in the opcode map (30_encoding.md R81 to R83). -/
theorem CommandRow.opcodeMap_eq {w : Word} {operands : List Operand} {i : Instr}
    (h : CommandRow w operands i) : ∃ reserved,
      opcodeMap (opNumber w) = some (reserved, operands.map kindOf) ∧ w &&& reserved = 0 := by
  rw [opNumber_eq]
  cases h with
  | curBind _ op hr | adpcmPull op hr | imgAlpha _ _ op hr =>
    exact ⟨_, by rw [op]; rfl, (reserved_all w).mpr hr⟩
  | curRdu _ op hr | curRds _ op hr => exact ⟨_, by rw [op]; rfl, (reserved_width w).mpr hr⟩
  | adpcmInit _ _ _ op hr => exact ⟨_, by rw [op]; rfl, (reserved_count w).mpr hr⟩
  | imgLossless _ _ _ _ _ _ op => exact ⟨_, by rw [op]; rfl, BitVec.and_zero⟩

/-- In a row of the opcode map the only cause of IllegalCommand left is an illegal width. -/
theorem CommandRow.illegal_iff {w : Word} {operands : List Operand} {i : Instr}
    (h : CommandRow w operands i) : IllegalCommandWord w operands ↔ IllegalRead i := by
  obtain ⟨reserved, hmap, hr⟩ := h.opcodeMap_eq
  simp only [IllegalCommandWord, hmap, hr, ne_eq, not_true_eq_false, false_or]
  rw [opNumber_eq]
  cases h with
  | curRdu _ op _ hn | curRds _ op _ hn => simp [IllegalRead, op, widthLegal_eq_false_iff hn]
  | curBind _ op | adpcmInit _ _ _ op | adpcmPull op | imgAlpha _ _ op => simp [IllegalRead, op]
  | imgLossless _ _ _ _ _ _ op => simp [op, selectLossless_not_illegalRead]

/-- A word that is not illegal is in a row. -/
theorem commandRow_of_legal {w : Word} {operands : List Operand}
    (h : ¬ IllegalCommandWord w operands) : ∃ i, CommandRow w operands i := by
  unfold IllegalCommandWord at h
  split at h
  · exact absurd trivial h
  rename_i reserved kinds hop
  push Not at h
  obtain ⟨hr, hk, -⟩ := h
  rw [opNumber_eq] at hop
  unfold opcodeMap at hop
  split at hop <;> cases hop <;> rename_i op
  · obtain ⟨src, rfl⟩ := kinds_source hk
    exact ⟨_, .curBind src op ((reserved_all w).mp hr)⟩
  · cases List.map_eq_nil_iff.mp hk
    exact ⟨_, .curRdu _ op ((reserved_width w).mp hr) (wordField_ofNat w rfl)⟩
  · cases List.map_eq_nil_iff.mp hk
    exact ⟨_, .curRds _ op ((reserved_width w).mp hr) (wordField_ofNat w rfl)⟩
  · obtain ⟨src, rate, rfl⟩ := kinds_source_word hk
    exact ⟨_, .adpcmInit _ src rate op ((reserved_count w).mp hr) (wordField_count w)⟩
  · cases List.map_eq_nil_iff.mp hk
    exact ⟨_, .adpcmPull op ((reserved_all w).mp hr)⟩
  · obtain ⟨jpeg, alphaZ, rfl⟩ := kinds_buffer_buffer hk
    exact ⟨_, .imgAlpha jpeg alphaZ op ((reserved_all w).mp hr)⟩
  · obtain ⟨width, height, dataZ, rfl⟩ := kinds_word_word_buffer hk
    exact ⟨_, .imgLossless _ _ _ width height dataZ op (wordField_ofNat w rfl)
      (wordField_ofNat w rfl) (wordField_ofNat w rfl)⟩

/-- CUR.RDU and CUR.RDS judge their width before anything else (40_cursor.md R127). -/
theorem IllegalRead.exec_eq {i : Instr} (h : IllegalRead i) (s : State) :
    exec i s = .next (s.raise .illegalCommand) := by
  obtain ⟨n, rfl | rfl, hn⟩ := h <;>
    simp [exec, execCurRdu, execCurRds, cursorRead, hn]

/-- An illegal command answers IllegalCommand, from the decoder or from the cursor read. -/
theorem step_of_illegal {s : State} {w : Word} {operands : List Operand} {rest : List HostEvent}
    (h : s.host.program = .command w operands :: rest) (hi : IllegalCommandWord w operands) :
    step s = .next ((s.issued rest).raise .illegalCommand) := by
  rcases hd : decodeCommand w operands with e | i
  · exact step_of_rejected h hd
  · rw [step_of_decoded h hd]
    exact ((decodeCommand_ok_iff.mp hd).illegal_iff.mp hi).exec_eq _

/-- A response that fits a command other than an illegal read is not IllegalCommand. -/
theorem ResponseFits.ne_illegalCommand {nch : ChannelCount} {i : Instr} {r : Response}
    (h : ResponseFits nch i r) (hi : ¬ IllegalRead i) : r ≠ .failed .illegalCommand := by
  rintro rfl
  exact hi (h rfl)

/-- The decoder of commands gives commands. -/
theorem CommandRow.isCommand {w : Word} {operands : List Operand} {i : Instr}
    (h : CommandRow w operands i) : isCommand i = true := by
  cases h with
  | imgLossless => unfold selectLossless; split_ifs <;> rfl
  | _ => rfl

/-- Settles O5: a command that is not illegal is in a row of the opcode map, and its response fits
the row's instruction, which is no read of an illegal width. -/
theorem illegalCommandIsRaisedExactlyByIllegalWords :
    Obligations.IllegalCommandIsRaisedExactlyByIllegalWords := by
  intro s w operands rest h
  refine ⟨step_of_illegal h, fun hl => ?_⟩
  obtain ⟨i, hrow⟩ := commandRow_of_legal hl
  have hd : decode (.command w operands) = .ok i := decodeCommand_ok_iff.mpr hrow
  refine ⟨i, hd, hrow.encode_eq.2, step_of_decoded h hd, fun t ht => ?_⟩
  rw [step_of_decoded h hd] at ht
  obtain ⟨u, r, rfl, hu, hr⟩ := exec_answersFitting hrow.isCommand ht
  have hne := hr.ne_illegalCommand (fun hi => hl (hrow.illegal_iff.mpr hi))
  simpa [hu] using hne

/-! ### The bits of a block (30_encoding.md R93) -/

/-- `u` is further on than `s` by `n` bits, with the same code size. -/
def Advanced (s : State) (n : Nat) (u : State) : Prop :=
  u.adpcm.bps = s.adpcm.bps ∧ u.cursor.pos = s.cursor.pos + n

theorem Advanced.trans {s t u : State} {m n : Nat} (h : Advanced s m t) (g : Advanced t n u) :
    Advanced s (m + n) u :=
  ⟨g.1.trans h.1, by rw [g.2, h.2, Nat.add_assoc]⟩

/-- Two parts of a pull take their bits one after the other. -/
theorem partOfPull_andThen_advanced {src : Source} {s : State} {m n : Nat} {p : Pulling}
    {k : State → Pulling} (h : PartOfPull src s (Advanced s m) p)
    (hk : ∀ u, u.adpcm.bps = s.adpcm.bps → PartOfPull src u (Advanced u n) (k u)) :
    PartOfPull src s (Advanced s (m + n)) (p.andThen k) :=
  h.andThen fun u hu => by
    rcases hk u hu.1 with ⟨t, e, hp, ht⟩ | hover
    · exact .inl ⟨t, e, hp, hu.trans ht⟩
    · exact .inr hover

/-- A stream read takes its width, where what is done with the value leaves the cursor. -/
theorem partOfPull_streamRead_advanced (src : Source) (n : Nat) (s : State)
    {k : Nat → State → State} (hk : ∀ v t, Progress src t (k v t))
    (hc : ∀ v t, (k v t).cursor = t.cursor) :
    PartOfPull src s (Advanced s n) (streamRead src n s k) := by
  rcases streamRead_cases src n s k with ⟨-, e⟩ | ⟨-, -, e⟩ | ⟨hl, -, e⟩
  · exact .inr ⟨s, _, _, e, .refl _ _, .inl ⟨rfl, rfl⟩⟩
  · exact .inr ⟨s, _, _, e, .refl _ _, .inr ⟨rfl, rfl⟩⟩
  · exact .inl ⟨_, e, (progress_moveTo s hl).trans (hk _ _), (hk _ _).bps,
      by rw [hc, State.moveTo_pos]⟩

/-- A header takes 22 bits (30_encoding.md R89). -/
theorem readHeader_advanced (src : Source) (c : Channel) (s : State) :
    PartOfPull src s (Advanced s 22) (readHeader src c s) :=
  partOfPull_andThen_advanced (m := 16) (n := 6)
    (partOfPull_streamRead_advanced src 16 s (fun _ t => progress_headerSample c _ t)
      fun _ t => State.setSample_cursor t c _)
    fun u _ => partOfPull_streamRead_advanced src 6 u (fun _ t => progress_headerIndex c _ t)
      fun _ t => State.setStepIndex_cursor t c _

/-- A code takes `bits_per_sample` bits (30_encoding.md R90). -/
theorem decodeChannel_advanced (src : Source) (c : Channel) (s : State) :
    PartOfPull src s (Advanced s s.adpcm.bps.bits) (decodeChannel src c s) :=
  partOfPull_streamRead_advanced src _ s (fun _ t => progress_applyCode c _ _ _ t)
    fun _ t => applyCode_cursor c _ _ _ t

/-- One element per channel takes the element's width for each (41_adpcm.md R145). -/
theorem forChannels_advanced {src : Source} {body : Channel → State → Pulling} {n : Nat}
    {size : CodeSize}
    (hb : ∀ c s, s.adpcm.bps = size → PartOfPull src s (Advanced s n) (body c s))
    (cs : List Channel) (s : State) (hs : s.adpcm.bps = size) :
    PartOfPull src s (Advanced s (cs.length * n)) (forChannels body cs s) := by
  induction cs generalizing s with
  | nil => exact .inl ⟨s, rfl, .refl _ _, rfl, by simp⟩
  | cons c cs ih =>
    rw [List.length_cons, Nat.succ_mul, Nat.add_comm]
    exact partOfPull_andThen_advanced (hb c s hs) fun u hu => ih u (hu.trans hs)

theorem codes_advanced (src : Source) (s : State) :
    PartOfPull src s (Advanced s ((channelsOf s.adpcm.nch).length * s.adpcm.bps.bits))
      (forChannels (decodeChannel src) (channelsOf s.adpcm.nch) s) :=
  forChannels_advanced (fun c s hs => hs ▸ decodeChannel_advanced src c s) _ s rfl

theorem headers_advanced (src : Source) (s : State) :
    PartOfPull src s (Advanced s ((channelsOf s.adpcm.nch).length * 22))
      (forChannels (readHeader src) (channelsOf s.adpcm.nch) s) :=
  forChannels_advanced (fun c s _ => readHeader_advanced src c s) _ s rfl

@[simp] theorem State.emitInstant_cursor (s : State) (counter : Nat) :
    (s.emitInstant counter).cursor = s.cursor := rfl

/-- A pull that a failed read ends leaves no ACTIVE session (41_adpcm.md R158, R159). -/
theorem EndedBy.raise_ne_active {mode : Mode} {why : Failure} (h : EndedBy mode why) (u : State) :
    ((u.setMode mode).raise why).adpcm.mode ≠ .active :=
  h.ne_active

/-- A pull's codes take their bits, or the session ends. -/
theorem pullCodes_position (src : Source) (s : State) :
    (pullCodes src s).adpcm.mode ≠ .active ∨ (pullCodes src s).cursor.pos =
      s.cursor.pos + (channelsOf s.adpcm.nch).length * s.adpcm.bps.bits := by
  rcases codes_advanced src s with ⟨u, e, -, hu⟩ | ⟨u, mode, why, e, -, he⟩
  · exact .inr (by simpa only [pullCodes, e, State.emitInstant_cursor] using hu.2)
  · exact .inl (by simpa only [pullCodes, e] using he.raise_ne_active u)

/-- The bits due inside a block: one code per channel. -/
theorem dueBits_inside {s : State} (h : s.adpcm.blockCounter ≠ 0) :
    dueBits s = (channelsOf s.adpcm.nch).length * s.adpcm.bps.bits := by
  simp [dueBits, dueElements, h, Function.comp_def, Due.width]

/-- The bits due at a block start under `EMIT_INITIAL`: one header per channel. -/
theorem dueBits_emitInitial {s : State} (h : s.adpcm.blockCounter = 0)
    (he : s.params.headerEmit = .emitInitial) :
    dueBits s = (channelsOf s.adpcm.nch).length * 22 := by
  simp [dueBits, dueElements, h, he, Function.comp_def, Due.width]

/-- The bits due at a block start under `DECODE_SAME_PULL`: a header and a code per channel. -/
theorem dueBits_decodeSamePull {s : State} (h : s.adpcm.blockCounter = 0)
    (he : s.params.headerEmit = .decodeSamePull) :
    dueBits s = (channelsOf s.adpcm.nch).length * 22 +
      (channelsOf s.adpcm.nch).length * s.adpcm.bps.bits := by
  simp [dueBits, dueElements, h, he, Function.comp_def, Due.width]

/-- A pull in mode ACTIVE takes the bits that are due, or ends the session
(41_adpcm.md R145, R147). -/
theorem pullActive_position (src : Source) (s : State) :
    (pullActive src s).adpcm.mode ≠ .active ∨
      (pullActive src s).cursor.pos = s.cursor.pos + dueBits s := by
  by_cases hb : s.adpcm.blockCounter = 0
  · rcases headers_advanced src s with ⟨u, e, hp, hbps, hpos⟩ | ⟨u, mode, why, e, -, he⟩
    · rcases hh : s.params.headerEmit
      · rw [dueBits_decodeSamePull hb hh, ← Nat.add_assoc, ← hpos, ← hbps, ← hp.nch]
        simpa only [pullActive, hb, if_true, e, hp.params, hh] using pullCodes_position src u
      · rw [dueBits_emitInitial hb hh]
        exact .inr (by
          simpa only [pullActive, hb, if_true, e, hp.params, hh, State.emitInstant_cursor]
            using hpos)
    · exact .inl (by simpa only [pullActive, hb, if_true, e] using he.raise_ne_active u)
  · rw [dueBits_inside hb]
    simpa only [pullActive, hb, if_false] using pullCodes_position src s

/-- What a pull that leaves the session ACTIVE has done: it took the due bits and stepped the
counter (41_adpcm.md R156). -/
structure PulledOn (s t : State) : Prop where
  mode : s.adpcm.mode = .active
  position : t.cursor.pos = s.cursor.pos + dueBits s
  counter : t.adpcm.blockCounter = counterAfter s
  nch : t.adpcm.nch = s.adpcm.nch
  bps : t.adpcm.bps = s.adpcm.bps
  params : t.params = s.params

/-- Only a pull in an ACTIVE session leaves one (41_adpcm.md R158 to R160). -/
theorem pulledOn_of_active {s t : State} (h : exec .adpcmPull s = .next t)
    (hm : t.adpcm.mode = .active) : PulledOn s t := by
  rcases execAdpcmPull_cases s with ⟨hs, e⟩ | ⟨hs, e⟩ | ⟨-, -, e⟩ | ⟨src, hs, -, e⟩ <;>
    rw [e] at h <;> cases h
  · cases hs.symm.trans hm
  · rcases hs with hs | hs <;> cases hs.symm.trans hm
  · have hpos := (pullActive_position src s).resolve_left (not_not.mpr hm)
    rcases pullActive_cases src s with ⟨u, e, hp, -⟩ | ⟨u, mode, why, e, -, he⟩ <;>
      rw [e] at hm hpos ⊢
    · exact ⟨hs, hpos, rfl, hp.nch, hp.bps, hp.params⟩
    · exact absurd hm (he.raise_ne_active u)

/-- Running one instruction more. -/
theorem execAll_snoc {is : List Instr} {i : Instr} {s t : State}
    (h : execAll (is ++ [i]) s = .next t) : ∃ u, execAll is s = .next u ∧ exec i u = .next t := by
  induction is generalizing s with
  | nil =>
    refine ⟨s, rfl, ?_⟩
    rcases he : exec i s with u | r | r <;> simp [execAll, he] at h
    rw [h]
  | cons j is ih =>
    rcases he : exec j s with u | r | r <;> simp only [List.cons_append, execAll, he] at h ⊢
    · exact ih h
    · cases h
    · cases h

/-- The codes that each channel has read after `k` pulls of a block (41_adpcm.md R147). -/
def codesRead (e : HeaderEmit) (k : Nat) : Nat :=
  match e with
  | .decodeSamePull => k
  | .emitInitial => k - 1

/-- Where the first `k` pulls of a block lead, if the session is still ACTIVE. -/
structure BlockTaken (s : State) (k : Nat) (t : State) : Prop where
  counter : t.adpcm.blockCounter = k % 4095
  position : t.cursor.pos = s.cursor.pos + (channelsOf s.adpcm.nch).length *
    (22 + codesRead s.params.headerEmit k * s.adpcm.bps.bits)
  nch : t.adpcm.nch = s.adpcm.nch
  bps : t.adpcm.bps = s.adpcm.bps
  params : t.params = s.params

/-- The first pull of a block reads the headers (41_adpcm.md R147). -/
theorem PulledOn.blockTaken_one {s t : State} (h : PulledOn s t) (hb : s.adpcm.blockCounter = 0) :
    BlockTaken s 1 t where
  counter := by simp [h.counter, counterAfter, hb]
  position := by
    rw [h.position]
    rcases he : s.params.headerEmit
    · rw [dueBits_decodeSamePull hb he, codesRead]; ring
    · rw [dueBits_emitInitial hb he, codesRead]; ring
  nch := h.nch
  bps := h.bps
  params := h.params

theorem codesRead_succ (e : HeaderEmit) {k : Nat} (hk : 1 ≤ k) :
    codesRead e (k + 1) = codesRead e k + 1 := by
  cases e <;> simp only [codesRead]
  omega

/-- Each later pull of the block reads one code per channel (41_adpcm.md R156). -/
theorem BlockTaken.succ {s t u : State} {k : Nat} (h : BlockTaken s k u) (hk : 1 ≤ k)
    (hk' : k < 4095) (g : PulledOn u t) : BlockTaken s (k + 1) t := by
  have hn : u.adpcm.blockCounter = k := h.counter.trans (Nat.mod_eq_of_lt hk')
  have hne : u.adpcm.blockCounter ≠ 0 := by omega
  refine ⟨?_, ?_, g.nch.trans h.nch, g.bps.trans h.bps, g.params.trans h.params⟩
  · rw [g.counter, counterAfter, if_neg (fun hc => hne hc.1), hn]
  · rw [g.position, dueBits_inside hne, h.position, h.nch, h.bps, codesRead_succ _ hk]; ring

/-- The first `k` pulls of a block, by induction on `k`. -/
theorem blockTaken_of_pulls {s : State} (hb : s.adpcm.blockCounter = 0) {k : Nat} (hk : 1 ≤ k) :
    ∀ t, k ≤ 4095 → execAll (List.replicate k .adpcmPull) s = .next t →
      t.adpcm.mode = .active → BlockTaken s k t := by
  induction k, hk using Nat.le_induction with
  | base =>
    intro t _ h hm
    obtain ⟨u, hu, ht⟩ := execAll_snoc (is := []) h
    cases hu
    exact (pulledOn_of_active ht hm).blockTaken_one hb
  | succ k hk ih =>
    intro t hle h hm
    rw [List.replicate_succ'] at h
    obtain ⟨u, hu, ht⟩ := execAll_snoc h
    have hpull := pulledOn_of_active ht hm
    exact (ih u (by omega) hu hpull.mode).succ hk (by omega) hpull

/-- Settles O35, from where the first `k` pulls lead. -/
theorem blocksTakeTheirBits : Obligations.BlocksTakeTheirBits := by
  intro s t k _ hb hk hk' h hm
  have hblock := blockTaken_of_pulls hb hk t hk' h hm
  exact ⟨hblock.counter, hblock.position⟩

end Sys2Proof.Machine
end

section
/-!
PROOFS of 40_cursor.md: CUR.BIND, and CUR.RDU and CUR.RDS as one case per outcome of their common
form `cursorRead`, in the order in which the outcomes are tested (60_exceptions.md R242).
-/

namespace Sys2Proof.Machine

/-! ### The cases of a cursor read -/

/-- The legal widths are 1..32 (40_cursor.md R127). -/
theorem widthLegal_iff {n : BitVec 6} : widthLegal n = true ↔ 1 ≤ n.toNat ∧ n.toNat ≤ 32 := by
  simp only [widthLegal, Bool.and_eq_true, decide_eq_true_eq]

/-- A cursor read without a source is NotInitialized (40_cursor.md R126). -/
theorem cursorRead_of_unbound {n : BitVec 6} (view : Nat → Word) {s : State}
    (hw : widthLegal n = true) (hs : s.cursor.src = none) :
    cursorRead n view s = s.raise .notInitialized := by
  simp only [cursorRead, hw, if_true, hs]

/-- A cursor read past the end is EndOfStream, whatever the entries are (40_cursor.md R124,
60_exceptions.md R242). -/
theorem cursorRead_of_short {n : BitVec 6} (view : Nat → Word) {s : State} {src : Source}
    (hw : widthLegal n = true) (hs : s.cursor.src = some src)
    (hl : 8 * src.length < s.cursor.pos + n.toNat) :
    cursorRead n view s = s.raise .endOfStream := by
  simp only [cursorRead, hw, if_true, hs, readBits_eos_iff.mpr hl]

/-- A cursor read inside the source that touches a `Fault` is SourceFault (40_cursor.md R125). -/
theorem cursorRead_of_fault {n : BitVec 6} (view : Nat → Word) {s : State} {src : Source}
    (hw : widthLegal n = true) (hs : s.cursor.src = some src)
    (hl : s.cursor.pos + n.toNat ≤ 8 * src.length) (hf : FaultAmong src s.cursor.pos n.toNat) :
    cursorRead n view s = s.raise .sourceFault := by
  have hr : readBits src n.toNat s = .fault :=
    readBits_fault_iff.mpr ⟨hl, (touchesFault_iff (widthLegal_iff.mp hw).1).mpr hf⟩
  simp only [cursorRead, hw, if_true, hs, hr]

/-- A move keeps the bound source (10_state.md R21). -/
theorem State.moveTo_of_bound {s : State} {src : Source} (hs : s.cursor.src = some src) (p : Nat) :
    s.moveTo p = { s with cursor := { src := some src, byteOff := p / 8, bitOff := p % 8 } } := by
  rw [← hs]; rfl

/-- A cursor read of readable bits answers the view of their number and moves past them
(40_cursor.md R120). -/
theorem cursorRead_of_Readable {n : BitVec 6} (view : Nat → Word) {s : State} {src : Source}
    (hw : widthLegal n = true) (hs : s.cursor.src = some src)
    (hr : Readable src s.cursor.pos n.toNat) :
    cursorRead n view s =
      State.answer
        { s with cursor :=
            { src := some src, byteOff := (s.cursor.pos + n.toNat) / 8,
              bitOff := (s.cursor.pos + n.toNat) % 8 } }
        (.value (view (streamValue src s.cursor.pos n.toNat))) := by
  rw [← State.moveTo_of_bound hs]
  simp only [cursorRead, hw, if_true, hs, readBits_of_Readable (widthLegal_iff.mp hw).1 hr]

/-! ### The two views of the bits read -/

/-- `zext_32(v)` is `v` for the widths a read accepts (40_cursor.md R122). -/
theorem toNat_zext_word {n v : Nat} (hn : n ≤ 32) (hv : v < 2 ^ n) :
    (BitVec.ofNat 32 v).toNat = v := by
  have hlt : v < 2 ^ 32 := hv.trans_le (Nat.pow_le_pow_right (by decide) hn)
  rw [BitVec.toNat_ofNat, Nat.mod_eq_of_lt hlt]

/-- `sext_n(v) mod 2^32`, as a signed word, is `sext_n(v)` for the widths a read accepts
(40_cursor.md R123, 00_scope.md R9). -/
theorem toInt_sext_word {n v : Nat} (h1 : 1 ≤ n) (hn : n ≤ 32) (hv : v < 2 ^ n) :
    (BitVec.ofInt 32 (sext n v)).toInt = sext n v := by
  obtain ⟨hlo, hhi⟩ := sext_bounds h1 hv
  have hpow : (2 ^ (n - 1) : Int) ≤ 2 ^ 31 := pow_le_pow_right₀ (by decide) (by omega)
  rw [BitVec.toInt_ofInt]
  exact Int.bmod_eq_of_le (by omega) (by omega)

/-! ### The statements on the cursor commands -/

/-- Settles O18: the read answers `zext_32` of the stream bits. -/
theorem curRduReadsUnsignedBits : Obligations.CurRduReadsUnsignedBits := by
  intro n s src h1 hn hs hr
  refine ⟨_, _, streamBits_streamValue hr, toNat_zext_word hn (streamValue_lt src _ _), ?_⟩
  exact congrArg Host.Outcome.next
    (cursorRead_of_Readable _ (widthLegal_iff.mpr ⟨h1, hn⟩) hs hr)

/-- Settles O19: the read answers `sext_n` of the stream bits, which the statement writes out. -/
theorem curRdsReadsSignedBits : Obligations.CurRdsReadsSignedBits := by
  intro n s src h1 hn hs hr
  refine ⟨_, _, streamBits_streamValue hr, toInt_sext_word h1 hn (streamValue_lt src _ _), ?_⟩
  exact congrArg Host.Outcome.next
    (cursorRead_of_Readable _ (widthLegal_iff.mpr ⟨h1, hn⟩) hs hr)

/-- Settles O22: both commands fail as their common form does, for any view. -/
theorem failedCursorReadsChangeNothing : Obligations.FailedCursorReadsChangeNothing := by
  intro n s src h1 hn hs
  have hw : widthLegal n = true := widthLegal_iff.mpr ⟨h1, hn⟩
  refine ⟨fun hl => ?_, fun hl hf => ?_⟩
  · exact ⟨congrArg Host.Outcome.next (cursorRead_of_short _ hw hs hl),
      congrArg Host.Outcome.next (cursorRead_of_short _ hw hs hl)⟩
  · exact ⟨congrArg Host.Outcome.next (cursorRead_of_fault _ hw hs hl hf),
      congrArg Host.Outcome.next (cursorRead_of_fault _ hw hs hl hf)⟩

/-- Settles O17: the operations of CUR.BIND make the update the statement writes out. -/
theorem curBindBindsAtPositionZero : Obligations.CurBindBindsAtPositionZero :=
  fun _ _ => rfl

/-- Settles O20: a read of an illegal width is judged before anything else. -/
theorem cursorReadsOfIllegalWidthAreIllegal : Obligations.CursorReadsOfIllegalWidthAreIllegal := by
  intro n s hn
  have hw : widthLegal n = false := by
    rw [Bool.eq_false_iff, ne_eq, widthLegal_iff]; omega
  exact ⟨IllegalRead.exec_eq ⟨n, .inl rfl, hw⟩ s, IllegalRead.exec_eq ⟨n, .inr rfl, hw⟩ s⟩

/-- Settles O21: both commands answer as their common form does, for any view. -/
theorem cursorReadsWithoutSourceAreNotInitialized :
    Obligations.CursorReadsWithoutSourceAreNotInitialized := by
  intro n s h1 hn hs
  have hw : widthLegal n = true := widthLegal_iff.mpr ⟨h1, hn⟩
  exact ⟨congrArg Host.Outcome.next (cursorRead_of_unbound _ hw hs),
    congrArg Host.Outcome.next (cursorRead_of_unbound _ hw hs)⟩

end Sys2Proof.Machine
end

section
/-!
PROOFS of 41_adpcm.md: ADPCM.INIT and the stream elements, a pull as the run of its due elements,
how a session ends, and sessions over equal sources.
-/

namespace Sys2Proof.Machine

/-! ### What the stream elements do (41_adpcm.md R143 to R155) -/

/-- `bits_per_sample = cc + 2` (30_encoding.md R88). -/
theorem CodeSize.bits_ofSizeCode (cc : BitVec 2) :
    (CodeSize.ofSizeCode cc).bits = cc.toNat + 2 := by
  revert cc; decide

/-- Settles O24, by the code sizes. -/
theorem sizeCodeSetsBitsPerSample : Obligations.SizeCodeSetsBitsPerSample :=
  fun cc _ => ⟨_, CodeSize.bits_ofSizeCode cc, rfl⟩

/-- Settles O25: the two writes of a header set both fields of its channel, the sample by the
two's-complement reading of its bits. -/
theorem headerSetsItsChannel : Obligations.HeaderSetsItsChannel := by
  intro smp k s
  rw [← sext_sixteen]
  exact ⟨rfl, rfl⟩

/-- The low clamp stores -32768 (41_adpcm.md R154, 90_conflicts.md C1). -/
theorem narrow16_low_clamp : narrow16 32768 = -32768 := by decide

/-- The clamp of a sample is saturation to the range of an i16 (41_adpcm.md R154). -/
theorem clampSample_eq_saturation (v : Int) : clampSample v = max (-32768) (min 32767 v) := by
  unfold clampSample
  rw [narrow16_low_clamp]
  split
  · omega
  · split <;> omega

/-- Settles O27, by the two bounds of the clamp. -/
theorem lowClampStoresMinus32768 : Obligations.LowClampStoresMinus32768 :=
  ⟨narrow16_low_clamp, fun v => ⟨fun h => if_pos h, clampSample_eq_saturation v⟩⟩

/-- `clamp` is saturation between its bounds (00_scope.md R8). -/
theorem clampTo_eq_saturation {lo hi : Int} (h : lo ≤ hi) (v : Int) :
    clampTo v lo hi = max lo (min hi v) := by
  unfold clampTo
  split
  · omega
  · split <;> omega

/-- A step inside the table is the table's own (41_adpcm.md R142). -/
theorem stepEntry_of_getElem? {p : Params} {k st : Nat} (h : p.stepTable[k]? = some st) :
    stepEntry p k = st := by
  simp [stepEntry, List.getD_eq_getElem?_getD, h]

/-- An index entry inside the format's variant is the variant's own (41_adpcm.md R142). -/
theorem indexEntry_of_getElem? {p : Params} {size : CodeSize} {m : Nat} {e : Int}
    (h : (indexVariant p.indexTable size)[m]? = some e) : indexEntry p size m = e := by
  simp [indexEntry, List.getD_eq_getElem?_getD, h]

/-- A code of any format on a channel that holds values, where both lookups are inside their tables
(41_adpcm.md R148 to R155). -/
theorem applyCode_of_present {c : Channel} {s : State} {x : Int} {k st m : Nat} {e : Int}
    (size : CodeSize) (sign : Bool)
    (hch : s.channel c = { sample := some x, stepIndex := some k })
    (hst : s.params.stepTable[k]? = some st)
    (he : (indexVariant s.params.indexTable size)[m]? = some e) :
    applyCode c size sign m s = s.setChannel c
      { sample := some (max (-32768)
          (min 32767 (updateSample x sign ((2 * m + 1) * st / size.signMask))))
        stepIndex := some (max 0 (min 88 ((k : Int) + e))).toNat } := by
  simp only [applyCode, hch, sampleOr, stepIndexOr, stepEntry_of_getElem? hst, codeDelta,
    clampSample_eq_saturation, nextIndex, indexEntry_of_getElem? he,
    clampTo_eq_saturation (show (0 : Int) ≤ 88 by decide)]

/-- Settles O26: the four formats differ in their sign mask and index variant alone. -/
theorem codesDecodeOneSample : Obligations.CodesDecodeOneSample := by
  intro c sign s x k st e hch hst
  exact ⟨fun _ he => congrArg _ (applyCode_of_present .b2 sign hch hst he),
    fun _ he => congrArg _ (applyCode_of_present .b3 sign hch hst he),
    fun _ he => congrArg _ (applyCode_of_present .b4 sign hch hst he),
    fun _ he => congrArg _ (applyCode_of_present .b5 sign hch hst he)⟩

/-! ### ADPCM.INIT by its source (41_adpcm.md R144) -/

section Init
variable (nch : ChannelCount) (rate : Word) (s : State)

/-- A read in a session just opened is at position 0. -/
theorem State.openSession_pos (src : Source) : (s.openSession nch src rate).cursor.pos = 0 := rfl

/-- ADPCM.INIT of an empty source has no bits for its size code. -/
theorem exec_adpcmInit_empty :
    exec (.adpcmInit nch [] rate) s =
      .next (((s.openSession nch [] rate).setMode .ended).raise .endOfStream) := by
  have hr : readBits [] 2 (s.openSession nch [] rate) = .eos := readBits_eos_iff.mpr Nat.two_pos
  simp only [exec, execAdpcmInit, hr]

/-- ADPCM.INIT of a source that begins with a `Fault` meets it at its size code. -/
theorem exec_adpcmInit_fault (rest : Source) :
    exec (.adpcmInit nch (.fault :: rest) rate) s =
      .next (((s.openSession nch (.fault :: rest) rate).setMode .faulted).raise .sourceFault) := by
  have hf : FaultAmong (.fault :: rest) 0 2 := ⟨0, by simp, by decide, by decide, rfl⟩
  have hr : readBits (.fault :: rest) 2 (s.openSession nch (.fault :: rest) rate) = .fault :=
    by
    rw [readBits_fault_iff, State.openSession_pos, List.length_cons]
    exact ⟨by omega, (touchesFault_iff (by decide)).mpr hf⟩
  simp only [exec, execAdpcmInit, hr]

/-- The first two stream bits of a byte are its two most significant ones (20_memory.md R52). -/
theorem streamBits_byte_two (b : Byte) (rest : Source) :
    StreamBits (.byte b :: rest) 0 2 (b.toNat / 64) := by
  have hb := b.isLt
  refine ⟨by omega, fun t ht => ?_⟩
  have h0 : (0 + t) / 8 = 0 := by omega
  have hbit : 7 - (0 + t) % 8 = 2 - 1 - t + 6 := by omega
  rw [bitAt, h0, hbit, show (64 : Nat) = 2 ^ 6 from rfl, Nat.testBit_div_two_pow]
  rfl

/-- The size code in the two most significant bits of a byte (30_encoding.md R88). -/
theorem CodeSize.bits_of_byte (b : Byte) :
    (CodeSize.ofSizeCode (BitVec.ofNat 2 (b.toNat / 64))).bits = b.toNat / 64 + 2 := by
  have hb := b.isLt
  rw [CodeSize.bits_ofSizeCode, BitVec.toNat_ofNat]; omega

/-- ADPCM.INIT of a source that begins with a byte starts a session with the byte's size code. -/
theorem exec_adpcmInit_byte (b : Byte) (rest : Source) :
    exec (.adpcmInit nch (.byte b :: rest) rate) s =
      .next ((s.startSession nch (.byte b :: rest) rate (BitVec.ofNat 2 (b.toNat / 64))).answer
        (.bps (BitVec.ofNat 8 (b.toNat / 64 + 2)))) := by
  have hbits := streamBits_byte_two b rest
  have hr : readBits (.byte b :: rest) 2 (s.openSession nch (.byte b :: rest) rate) =
      .ok (b.toNat / 64) ((s.openSession nch (.byte b :: rest) rate).moveTo 2) := by
    have hread := hbits.readable (by decide)
    rw [readBits_of_Readable (by decide) hread, State.openSession_pos,
      (streamBits_streamValue hread).unique hbits]
  simp only [exec, execAdpcmInit, hr, State.startSession, applySizeCode, State.setBps_bps,
    CodeSize.bits_of_byte]

end Init

/-- Settles O23, by the first entry of the source. -/
theorem adpcmInitStartsASession : Obligations.AdpcmInitStartsASession := by
  intro nch src rate s
  rcases src with _ | ⟨⟨b⟩ | _, rest⟩
  · exact exec_adpcmInit_empty nch rate s
  · exact ⟨_, CodeSize.bits_of_byte b, exec_adpcmInit_byte nch rate s b rest⟩
  · exact exec_adpcmInit_fault nch rate s rest

/-! ### A pull by the mode of the session (41_adpcm.md R145, R160) -/

/-- A pull of an ACTIVE session with its source bound decodes. -/
theorem exec_pull_of_active {s : State} {src : Source} (hm : s.adpcm.mode = .active)
    (hs : s.cursor.src = some src) : exec .adpcmPull s = .next (pullActive src s) := by
  simp only [exec, execAdpcmPull, hm, hs]

/-- The session has ended or met a `Fault` (41_adpcm.md R158, R159). -/
def Terminated (s : State) : Prop := s.adpcm.mode = .ended ∨ s.adpcm.mode = .faulted

/-- A pull of a terminated session answers EndOfStream alone. -/
theorem Terminated.exec_pull {s : State} (h : Terminated s) :
    exec .adpcmPull s = .next (s.raise .endOfStream) := by
  rcases h with hm | hm <;> simp only [exec, execAdpcmPull, hm]

/-- Settles O30: the mode UNINIT is tested first. -/
theorem pullBeforeAnySessionIsNotInitialized :
    Obligations.PullBeforeAnySessionIsNotInitialized := by
  intro s hm
  simp only [exec, execAdpcmPull, hm]
  rfl

/-- Settles O34: an ACTIVE session's pull emits an instant or ends at a failed read; in every other
mode a pull fails and changes nothing. -/
theorem blockCounterFollowsThePulls : Obligations.BlockCounterFollowsThePulls := by
  intro s t r h hr
  rcases execAdpcmPull_cases s with ⟨-, e⟩ | ⟨-, e⟩ | ⟨-, -, e⟩ | ⟨src, -, -, e⟩ <;>
    rw [e] at h <;> cases h
  · obtain rfl : .failed .notInitialized = r := by simpa using hr
    rfl
  · obtain rfl : .failed .endOfStream = r := by simpa using hr
    rfl
  · rcases pullActive_cases src s with ⟨u, e, hp, -⟩ | ⟨u, mode, why, e, hp, -⟩ <;>
      rw [e] at hr ⊢
    · obtain rfl : .ok (emitted u) = r := by simpa [State.emitInstant, hp.host] using hr
      rfl
    · obtain rfl : .failed why = r := by simpa [hp.host] using hr
      exact hp.counter

/-! ### A terminated session (41_adpcm.md R160) -/

/-- The command opens no other session: it is neither CUR.BIND nor ADPCM.INIT. -/
def KeepsSession (i : Instr) : Prop :=
  isCommand i = true ∧ (∀ src, i ≠ .curBind src) ∧ ∀ nch src rate, i ≠ .adpcmInit nch src rate

/-- In a terminated session such a command writes nothing of the session. -/
theorem Terminated.exec_adpcm {i : Instr} {s t : State} (h : Terminated s) (hi : KeepsSession i)
    (ht : exec i s = .next t) : t.adpcm = s.adpcm := by
  obtain ⟨hc, hbind, hinit⟩ := hi
  by_cases him : isImageCommand i = true
  · obtain ⟨r, rfl⟩ := exec_image_next him ht
    rfl
  · cases i with
    | curBind src => exact absurd rfl (hbind src)
    | adpcmInit nch src rate => exact absurd rfl (hinit nch src rate)
    | curRdu n | curRds n => cases ht; exact (cursorRead_frame n _ s).2
    | adpcmPull => rw [h.exec_pull] at ht; cases ht; rfl
    | sizeCode | header | code2 | code3 | code4 | code5 => cases hc
    | _ => exact absurd rfl him

theorem execAll_cons_of_next {i : Instr} {is : List Instr} {s t : State}
    (h : exec i s = .next t) : execAll (i :: is) s = execAll is t := by
  simp only [execAll, h]

/-- A run of several instructions begins with a next state of the first. -/
theorem execAll_cons_next {i : Instr} {is : List Instr} {s t : State}
    (h : execAll (i :: is) s = .next t) : ∃ u, exec i s = .next u ∧ execAll is u = .next t := by
  rcases he : exec i s with u | r | r <;> simp only [execAll, he] at h
  · exact ⟨u, rfl, h⟩
  · cases h
  · cases h

/-- Nor do such commands one after another. -/
theorem Terminated.execAll_adpcm {is : List Instr} {s t : State} (h : Terminated s)
    (hi : ∀ i ∈ is, KeepsSession i) (ht : execAll is s = .next t) : t.adpcm = s.adpcm := by
  induction is generalizing s with
  | nil => cases ht; rfl
  | cons i is ih =>
    obtain ⟨u, hu, ht⟩ := execAll_cons_next ht
    have hadpcm := h.exec_adpcm (hi i List.mem_cons_self) hu
    have hterm : Terminated u := by rw [Terminated, hadpcm]; exact h
    exact (ih hterm (fun j hj => hi j (List.mem_cons_of_mem i hj)) ht).trans hadpcm

/-- A pull answers SourceFault only where one of its reads met a `Fault`, and then leaves the mode
FAULTED (41_adpcm.md R159). -/
theorem pull_sourceFault_faulted {s t : State} (h : exec .adpcmPull s = .next t)
    (hr : t.host.responses = s.host.responses ++ [.failed .sourceFault]) :
    t.adpcm.mode = .faulted := by
  rcases execAdpcmPull_cases s with ⟨-, e⟩ | ⟨-, e⟩ | ⟨-, -, e⟩ | ⟨src, -, -, e⟩ <;>
    rw [e] at h <;> cases h
  · simp at hr
  · simp at hr
  · rcases pullActive_cases src s with ⟨u, e, hp, -⟩ | ⟨u, mode, why, e, hp, he⟩ <;>
      rw [e] at hr ⊢
    · simp [State.emitInstant, hp.host] at hr
    · obtain rfl : why = .sourceFault := by simpa [hp.host] using hr
      rcases he with ⟨-, he⟩ | ⟨rfl, -⟩
      · cases he
      · rfl

/-- Settles O31, by induction on the commands that come after. -/
theorem terminatedSessionsNeverResume : Obligations.TerminatedSessionsNeverResume := by
  refine ⟨fun s t commands hm hi ht => ?_, fun s t => pull_sourceFault_faulted⟩
  have hadpcm := Terminated.execAll_adpcm hm hi ht
  have hterm : Terminated t := by rw [Terminated, hadpcm]; exact hm
  exact ⟨hadpcm, hterm.exec_pull⟩

/-! ### The elements of a pull, fetched one after another (30_encoding.md R92) -/

/-- Fetch one stream element and run it, each of its reads ending the pull if it fails
(41_adpcm.md R143, R146, R148). -/
def fetchDue (src : Source) : Due → State → Pulling
  | .sizeCode, s => streamRead src 2 s fun v t => applySizeCode (BitVec.ofNat 2 v) t
  | .header c, s => readHeader src c s
  | .code size c, s => streamRead src size.bits s fun v t =>
    applyCode c size (codeSign size v) (codeMagnitude size v) t

/-- Fetch and run elements one after another, until a read fails. -/
def fetchAll (src : Source) : List Due → State → Pulling
  | [], s => .going s
  | due :: rest, s => (fetchDue src due s).andThen (fetchAll src rest)

/-- How a pull ends: at a failed read, its response given, or with the instant
(41_adpcm.md R157 to R159). -/
def Pulling.finish (p : Pulling) (counter : Nat) : State :=
  match p with
  | .over t => t
  | .going t => t.emitInstant counter

@[simp] theorem Pulling.finish_over (t : State) (counter : Nat) :
    (Pulling.over t).finish counter = t := rfl

@[simp] theorem Pulling.finish_going (t : State) (counter : Nat) :
    (Pulling.going t).finish counter = t.emitInstant counter := rfl

theorem Pulling.andThen_assoc (p : Pulling) (j k : State → Pulling) :
    (p.andThen j).andThen k = p.andThen fun s => (j s).andThen k := by
  cases p <;> rfl

theorem fetchAll_append (src : Source) (ds es : List Due) (s : State) :
    fetchAll src (ds ++ es) s = (fetchAll src ds s).andThen (fetchAll src es) := by
  induction ds generalizing s with
  | nil => rfl
  | cons due rest ih => 
    rw [List.cons_append, fetchAll, fetchAll, Pulling.andThen_assoc]
    exact congrArg _ (funext ih)

/-- The headers of a pull are one element per channel (41_adpcm.md R145). -/
theorem forChannels_readHeader (src : Source) (cs : List Channel) (s : State) :
    forChannels (readHeader src) cs s = fetchAll src (cs.map .header) s := by
  induction cs generalizing s with
  | nil => rfl
  | cons c cs ih =>
    simp only [forChannels, List.map_cons, fetchAll, fetchDue]
    exact congrArg _ (funext ih)

/-- The codes of a pull are one element per channel, in the session's format, which no code writes
(41_adpcm.md R145, R148). -/
theorem forChannels_decodeChannel (src : Source) (cs : List Channel) (s : State) :
    forChannels (decodeChannel src) cs s = fetchAll src (cs.map (.code s.adpcm.bps)) s := by
  induction cs generalizing s with
  | nil => rfl
  | cons c cs ih =>
    have hfetch : fetchDue src (.code s.adpcm.bps c) s = decodeChannel src c s := rfl
    simp only [forChannels, List.map_cons, fetchAll, hfetch]
    rcases partOfPull_decodeChannel src c s with ⟨u, e, hp, -⟩ | ⟨u, mode, why, e, -, -⟩ <;>
      simp only [e, Pulling.andThen_going, Pulling.andThen_over]
    rw [ih u, hp.bps]

/-- The codes of a pull and its end are those of its code elements (41_adpcm.md R156). -/
theorem pullCodes_eq_finish (src : Source) (s : State) :
    pullCodes src s =
      (fetchAll src ((channelsOf s.adpcm.nch).map (.code s.adpcm.bps)) s).finish
        ((s.adpcm.blockCounter + 1) % 4095) := by
  rw [← forChannels_decodeChannel, pullCodes]
  rcases codes_advanced src s with ⟨u, e, hp, -⟩ | ⟨u, mode, why, e, -, -⟩ <;>
    simp only [e, Pulling.finish_over, Pulling.finish_going]
  rw [hp.counter]

/-- A pull fetches the due elements, runs them and ends with them (41_adpcm.md R145, R147, R156). -/
theorem pullActive_eq_finish (src : Source) (s : State) :
    pullActive src s = (fetchAll src (dueElements s) s).finish (counterAfter s) := by
  by_cases hb : s.adpcm.blockCounter = 0
  · have hheaders := forChannels_readHeader src (channelsOf s.adpcm.nch) s
    rcases headers_advanced src s with ⟨u, e, hp, -⟩ | ⟨u, mode, why, e, -, -⟩ <;>
      rw [e] at hheaders
    · rcases hh : s.params.headerEmit
      · simp [pullActive, hb, e, hp.params, hh, dueElements, fetchAll_append, ← hheaders,
          pullCodes_eq_finish, hp.nch, hp.bps, hp.counter, counterAfter]
      · simp [pullActive, hb, e, hp.params, hh, dueElements, ← hheaders, counterAfter]
    · rcases hh : s.params.headerEmit <;>
        simp [pullActive, hb, e, hh, dueElements, fetchAll_append, ← hheaders]
  · simp only [pullActive, hb, if_false, dueElements, counterAfter, false_and,
      pullCodes_eq_finish]

/-! ### Elements run, and elements fetched -/

/-- The first `m` of `m + n` stream bits are the number's high part, the others its low part
(20_memory.md R53). -/
theorem StreamBits.split {src : Source} {p m n v : Nat} (h : StreamBits src p (m + n) v) :
    StreamBits src p m (v / 2 ^ n) ∧ StreamBits src (p + m) n (v % 2 ^ n) := by
  obtain ⟨hv, hbits⟩ := h
  refine ⟨⟨?_, fun t ht => ?_⟩, ⟨Nat.mod_lt _ (Nat.two_pow_pos n), fun t ht => ?_⟩⟩
  · exact Nat.div_lt_of_lt_mul (by rwa [← Nat.pow_add, Nat.add_comm n m])
  · rw [hbits t (by omega), Nat.testBit_div_two_pow, show m + n - 1 - t = m - 1 - t + n by omega]
  · rw [Nat.add_assoc, hbits (m + t) (by omega), Nat.testBit_mod_two_pow,
      show m + n - 1 - (m + t) = n - 1 - t by omega]
    simp [show n - 1 - t < n by omega]

/-- A stream read whose bits are known goes on with them. -/
theorem streamRead_of_streamBits {src : Source} {n v : Nat} {s : State} {k : Nat → State → State}
    (hn : 1 ≤ n) (h : StreamBits src s.cursor.pos n v) :
    streamRead src n s k = .going (k v (s.moveTo (s.cursor.pos + n))) := by
  have hr := h.readable hn
  rw [streamRead_of_Readable hn hr, (streamBits_streamValue hr).unique h]

theorem State.moveTo_moveTo (s : State) (p q : Nat) : (s.moveTo p).moveTo q = s.moveTo q := rfl

theorem State.moveTo_setSample (s : State) (c : Channel) (v : Int) (p : Nat) :
    (s.setSample c v).moveTo p = (s.moveTo p).setSample c v := by
  cases c <;> rfl

/-- The first read of a header whose bits are known (41_adpcm.md R146). -/
theorem readHeader_of_sample {src : Source} {c : Channel} {smp : BitVec 16} {s : State}
    (h : StreamBits src s.cursor.pos 16 smp.toNat) :
    readHeader src c s =
      streamRead src 6 ((s.moveTo (s.cursor.pos + 16)).setSample c smp.toInt)
        fun v u => applyHeaderIndex c (BitVec.ofNat 6 v) u := by
  rw [readHeader, streamRead_of_streamBits (by decide) h, Pulling.andThen_going,
    applyHeaderSample, BitVec.ofNat_toNat, BitVec.setWidth_eq, sext_sixteen]

/-- The two reads of a header are one read of its 22 bits (30_encoding.md R89). -/
theorem readHeader_of_streamBits {src : Source} {c : Channel} {v : Nat} {s : State}
    (h : StreamBits src s.cursor.pos 22 v) :
    readHeader src c s = .going (applyHeaderIndex c (BitVec.ofNat 6 (v % 64))
      (applyHeaderSample c (BitVec.ofNat 16 (v / 64)) (s.moveTo (s.cursor.pos + 22)))) := by
  obtain ⟨hsmp, hidx⟩ := StreamBits.split (m := 16) (n := 6) h
  have hpos : ∀ x, ((s.moveTo (s.cursor.pos + 16)).setSample c x).cursor.pos =
      s.cursor.pos + 16 := fun x => by
    rw [State.setSample_cursor, State.moveTo_pos]
  rw [readHeader, streamRead_of_streamBits (by decide) hsmp, Pulling.andThen_going,
    applyHeaderSample, streamRead_of_streamBits (by decide) ((hpos _).symm ▸ hidx), hpos,
    State.moveTo_setSample, State.moveTo_moveTo]
  rfl

/-- Every element has a width. -/
theorem Due.width_pos (due : Due) : 1 ≤ due.width := by
  rcases due with _ | _ | ⟨size, _⟩
  · exact Nat.le_add_left 1 1
  · exact Nat.le_add_left 1 21
  · exact Nat.le_of_succ_le (CodeSize.bits_bounds size).1

/-- Fetching an element is reading its bits, decoding them and running the instruction they are
(10_state.md R28). -/
theorem fetchDue_of_run {src : Source} {due : Due} {v : Nat} {i : Instr} {s t : State}
    (bits : StreamBits src s.cursor.pos due.width v) (dec : decode (.element due v) = .ok i)
    (run : exec i (s.moveTo (s.cursor.pos + due.width)) = .next t) :
    fetchDue src due s = .going t := by
  have hv := bits.1
  cases due with
  | sizeCode =>
    cases (if_pos hv).symm.trans dec
    cases run
    exact streamRead_of_streamBits (by decide) bits
  | header c =>
    cases (if_pos hv).symm.trans dec
    cases run
    exact readHeader_of_streamBits bits
  | code size c =>
    cases (exec_of_decoded_code dec _).symm.trans run
    exact streamRead_of_streamBits (Due.width_pos (.code size c)) bits

/-- Elements that can be run are the elements a pull fetches. -/
theorem ElementsRun.fetchAll_eq {src : Source} {dues : List Due} {s u : State}
    (h : ElementsRun src dues s u) : fetchAll src dues s = .going u := by
  induction h with
  | none s => rfl
  | more bits dec run _ ih =>
    rw [fetchAll, fetchDue_of_run bits dec run, Pulling.andThen_going, ih]

/-- The bits of an element that is due decode to a stream element (30_encoding.md R94). -/
theorem decode_element_ok (due : Due) {v : Nat} (h : v < 2 ^ due.width) :
    ∃ i, decode (.element due v) = .ok i ∧ isCommand i = false := by
  cases due with
  | sizeCode => exact ⟨_, if_pos h, rfl⟩
  | header c => exact ⟨_, if_pos h, rfl⟩
  | code size c => exact ⟨_, decodeElement_code size c h, by cases size <;> rfl⟩

/-- Elements run one after another do not write the host's record (10_state.md R32). -/
theorem ElementsRun.host {src : Source} {dues : List Due} {s u : State}
    (h : ElementsRun src dues s u) : u.host = s.host := by
  induction h with
  | none s => rfl
  | @more due _ v i _ _ _ bits dec run _ ih =>
    obtain ⟨j, hj, helem⟩ := decode_element_ok due bits.1
    cases hj.symm.trans dec
    obtain ⟨-, hhost, -⟩ := exec_element_frame helem run
    exact ih.trans hhost

/-- Elements whose bits lie in a readable range can be run, and take their bits. -/
theorem elementsRun_of_Readable {src : Source} {p n : Nat} (hr : Readable src p n)
    (dues : List Due) (s : State) (hp : p ≤ s.cursor.pos)
    (hn : s.cursor.pos + (dues.map Due.width).sum ≤ p + n) :
    ∃ u, ElementsRun src dues s u ∧
      u.cursor.pos = s.cursor.pos + (dues.map Due.width).sum := by
  induction dues generalizing s with
  | nil => exact ⟨s, .none s, rfl⟩
  | cons due rest ih =>
    rw [List.map_cons, List.sum_cons] at hn
    have hbits := streamBits_streamValue
      (hr.sub (q := s.cursor.pos) (m := due.width) (Due.width_pos due) hp (by omega))
    obtain ⟨i, dec, helem⟩ := decode_element_ok due hbits.1
    obtain ⟨t, run, -⟩ := exec_element_next helem (s.moveTo (s.cursor.pos + due.width))
    have hpos : t.cursor.pos = s.cursor.pos + due.width := by
      rw [(exec_element_frame helem run).1, State.moveTo_pos]
    obtain ⟨u, hu, hupos⟩ := ih t (by omega) (by omega)
    exact ⟨u, .more hbits dec run hu,
      by rw [hupos, hpos, List.map_cons, List.sum_cons, Nat.add_assoc]⟩

/-! ### A pull whose bits can all be read (41_adpcm.md R157) -/

/-- A sample in range is the number of its 16-bit word in a response (00_scope.md R8). -/
theorem toInt_emitted_sample {x : Int} (h1 : -32768 ≤ x) (h2 : x ≤ 32767) :
    (toI16 (narrow16 x)).toInt = x := by
  have hx : narrow16 x = x := by unfold narrow16; omega
  rw [hx, toI16, BitVec.toInt_ofInt]
  exact Int.bmod_eq_of_le (by omega) (by omega)

/-- What a channel that is set emits is its sample. -/
theorem ChannelSet.sample_eq {ch : ChannelState} (h : ChannelSet ch) (c : Channel) :
    ch.sample = some (toI16 (narrow16 (sampleOr c ch))).toInt := by
  obtain ⟨x, k, rfl, h1, h2, -⟩ := h
  exact congrArg some (toInt_emitted_sample h1 h2).symm

/-- The instant is the samples of the session's channels, once they are set. -/
theorem instantOf_emitted {s : State}
    (h : ∀ c ∈ channelsOf s.adpcm.nch, ChannelSet (s.channel c)) : InstantOf s (emitted s) := by
  rcases hn : s.adpcm.nch <;> simp only [hn, channelsOf] at h <;>
    simp only [InstantOf, emitted, hn]
  · exact (h .left (by simp)).sample_eq .left
  · exact ⟨(h .left (by simp)).sample_eq .left, (h .right (by simp)).sample_eq .right⟩

/-- Settles O28: the due elements run, the pull is their run, and as it answers OK its channels are
set. -/
theorem pullRunsTheDueStreamElements : Obligations.PullRunsTheDueStreamElements := by
  intro s src hm hs hr
  obtain ⟨u, hu, hpos⟩ := elementsRun_of_Readable hr (dueElements s) s le_rfl le_rfl
  have hpull : exec .adpcmPull s = .next (u.emitInstant (counterAfter s)) := by
    rw [exec_pull_of_active hm hs, pullActive_eq_finish, hu.fetchAll_eq,
      Pulling.finish_going]
  have hset := okPullsLeaveSamplesAndIndicesInRange s _ (emitted u) hpull
    (by simp [State.emitInstant, hu.host])
  refine ⟨u, emitted u, hu, hpos, ?_, ?_⟩
  · exact instantOf_emitted (by simpa [State.emitInstant, ChannelSet] using hset)
  · rw [hpull, ← hu.host]; rfl

/-! ### A pull whose read fails (41_adpcm.md R158, R159) -/

/-- A pull is over where the fetch of one of its elements is. -/
theorem exec_pull_of_over {s u t : State} {src : Source} {before after : List Due} {due : Due}
    (hm : s.adpcm.mode = .active) (hs : s.cursor.src = some src)
    (hdue : dueElements s = before ++ due :: after) (hu : ElementsRun src before s u)
    (hover : fetchDue src due u = .over t) : exec .adpcmPull s = .next t := by
  rw [exec_pull_of_active hm hs, pullActive_eq_finish, hdue, fetchAll_append, hu.fetchAll_eq,
    Pulling.andThen_going, fetchAll, hover, Pulling.andThen_over, Pulling.finish_over]

/-- Settles O29: the fetch of the element fails at its first read, or a header's at its second. -/
theorem pullEndsAtAFailedRead : Obligations.PullEndsAtAFailedRead := by
  intro s u src before due after mode why hm hs hdue hu
  have hpull := fun t => exec_pull_of_over (t := t) hm hs hdue hu
  rw [← hu.host]
  refine ⟨?code, ?sample, ?index⟩
  case code =>
    rintro size c rfl hf
    exact hpull _ (streamRead_of_fails (Due.width_pos (.code size c)) hf)
  case sample =>
    rintro c rfl hf
    refine hpull _ ?_
    rw [fetchDue, readHeader, streamRead_of_fails (by decide) hf, Pulling.andThen_over]
    rfl
  case index =>
    rintro c smp rfl hsmp hf
    refine hpull _ ?_
    rw [fetchDue, readHeader_of_sample hsmp]
    exact streamRead_of_fails (by decide) (by rwa [State.setSample_cursor, State.moveTo_pos])

/-! ### A session in other surroundings (41_adpcm.md R161) -/

/-- What no pull reads: the sample rate, what the host has yet to issue, and the responses it had
received before. -/
structure Surroundings where
  rate : Word
  program : List HostEvent
  earlier : List Response

/-- The same session in other surroundings. -/
def State.within (e : Surroundings) (s : State) : State :=
  { s with
    adpcm := { s.adpcm with rate := e.rate }
    host := { program := e.program, responses := e.earlier ++ s.host.responses } }

section Within
variable (e : Surroundings) (s : State)

@[simp] theorem State.within_params : (s.within e).params = s.params := rfl
@[simp] theorem State.within_responses :
    (s.within e).host.responses = e.earlier ++ s.host.responses := rfl
@[simp] theorem State.within_channel (c : Channel) : (s.within e).channel c = s.channel c := by
  cases c <;> rfl

theorem State.within_moveTo (p : Nat) : (s.within e).moveTo p = (s.moveTo p).within e := rfl
theorem State.within_setMode (m : Mode) : (s.within e).setMode m = (s.setMode m).within e := rfl
theorem State.within_setBps (size : CodeSize) :
    (s.within e).setBps size = (s.setBps size).within e := rfl
theorem State.within_setBlockCounter (n : Nat) :
    (s.within e).setBlockCounter n = (s.setBlockCounter n).within e := rfl
theorem State.within_setChannel (c : Channel) (ch : ChannelState) :
    (s.within e).setChannel c ch = (s.setChannel c ch).within e := by
  cases c <;> rfl

/-- A response comes after the earlier ones. -/
theorem State.within_respond (r : Response) : (s.within e).respond r = (s.respond r).within e := by
  simp only [State.respond, State.within, List.append_assoc]

theorem State.within_raise (why : Failure) : (s.within e).raise why = (s.raise why).within e :=
  s.within_respond e _

theorem State.within_emitInstant (n : Nat) :
    (s.within e).emitInstant n = (s.emitInstant n).within e :=
  (s.setBlockCounter n).within_respond e _

/-! ### The elements of a pull, in other surroundings -/

theorem applyHeaderSample_within (c : Channel) (smp : BitVec 16) :
    applyHeaderSample c smp (s.within e) = (applyHeaderSample c smp s).within e := by
  simp only [applyHeaderSample, State.setSample, State.within_channel, State.within_setChannel]

theorem applyHeaderIndex_within (c : Channel) (k : BitVec 6) :
    applyHeaderIndex c k (s.within e) = (applyHeaderIndex c k s).within e := by
  simp only [applyHeaderIndex, State.setStepIndex, State.within_channel, State.within_setChannel]

theorem applyCode_within (c : Channel) (size : CodeSize) (sign : Bool) (m : Nat) :
    applyCode c size sign m (s.within e) = (applyCode c size sign m s).within e := by
  simp only [applyCode, State.within_channel, State.within_params, State.within_setChannel]

/-- A pull as far as it has come, in other surroundings. -/
def Pulling.within (e : Surroundings) : Pulling → Pulling
  | .going s => .going (s.within e)
  | .over s => .over (s.within e)

theorem Pulling.within_finish (p : Pulling) (counter : Nat) :
    (p.within e).finish counter = (p.finish counter).within e := by
  cases p
  · exact State.within_emitInstant e _ counter
  · rfl

theorem Pulling.within_andThen (p : Pulling) {k : State → Pulling}
    (hk : ∀ s, k (s.within e) = (k s).within e) :
    (p.within e).andThen k = (p.andThen k).within e := by
  cases p
  · exact hk _
  · rfl

/-- A stream read depends on the position and the source alone (20_memory.md R60). -/
theorem streamRead_within (src : Source) (n : Nat) {k : Nat → State → State}
    (hk : ∀ v s, k v (s.within e) = (k v s).within e) :
    streamRead src n (s.within e) k = (streamRead src n s k).within e := by
  rcases streamRead_cases src n s k with ⟨hl, h⟩ | ⟨hl, hf, h⟩ | ⟨hl, hf, h⟩ <;> rw [h]
  · have hr : readBits src n (s.within e) = .eos := readBits_eos_iff.mpr hl
    rw [streamRead, hr]
    exact congrArg Pulling.over (State.within_raise e (s.setMode .ended) _)
  · have hr : readBits src n (s.within e) = .fault := readBits_fault_iff.mpr ⟨hl, hf⟩
    rw [streamRead, hr]
    exact congrArg Pulling.over (State.within_raise e (s.setMode .faulted) _)
  · have hr := readBits_of_readable (s := s.within e) hl hf
    rw [streamRead, hr]
    exact congrArg Pulling.going
      (hk (streamValue src s.cursor.pos n) (s.moveTo (s.cursor.pos + n)))

theorem fetchDue_within (src : Source) (due : Due) :
    fetchDue src due (s.within e) = (fetchDue src due s).within e := by
  cases due with
  | sizeCode => exact streamRead_within e s src 2 fun _ t => t.within_setBps e _
  | header c =>
    simp only [fetchDue, readHeader]
    rw [streamRead_within e s src 16 fun _ t => applyHeaderSample_within e t c _]
    exact Pulling.within_andThen e _ fun t =>
      streamRead_within e t src 6 fun _ u => applyHeaderIndex_within e u c _
  | code size c => exact streamRead_within e s src _ fun _ t => applyCode_within e t c size _ _

theorem fetchAll_within (src : Source) (dues : List Due) :
    fetchAll src dues (s.within e) = (fetchAll src dues s).within e := by
  induction dues generalizing s with
  | nil => rfl
  | cons due rest ih =>
    rw [fetchAll, fetchDue_within]
    exact Pulling.within_andThen e _ ih

theorem pullActive_within (src : Source) :
    pullActive src (s.within e) = (pullActive src s).within e := by
  rw [pullActive_eq_finish, pullActive_eq_finish, ← Pulling.within_finish, ← fetchAll_within]
  rfl

end Within

/-- A pull does the same in other surroundings. -/
theorem exec_pull_within (e : Surroundings) {s t : State} (h : exec .adpcmPull s = .next t) :
    exec .adpcmPull (s.within e) = .next (t.within e) := by
  rcases execAdpcmPull_cases s with ⟨hm, he⟩ | ⟨hm, he⟩ | ⟨-, -, he⟩ | ⟨src, hm, hs, he⟩ <;>
    rw [he] at h <;> cases h
  · exact (pullBeforeAnySessionIsNotInitialized (s.within e) hm).trans
      (congrArg _ (s.within_raise e _))
  · exact (Terminated.exec_pull (s := s.within e) hm).trans (congrArg _ (s.within_raise e _))
  · exact (exec_pull_of_active (s := s.within e) hm hs).trans
      (congrArg _ (pullActive_within e s src))

/-! ### Pulls one after another -/

/-- Any number of pulls do the same in other surroundings. -/
theorem pulls_within (e : Surroundings) (k : Nat) {s t : State}
    (h : execAll (List.replicate k .adpcmPull) s = .next t) :
    execAll (List.replicate k .adpcmPull) (s.within e) = .next (t.within e) := by
  induction k generalizing s with
  | zero => cases h; rfl
  | succ k ih =>
    obtain ⟨u, hu, ht⟩ := execAll_cons_next (is := List.replicate k .adpcmPull) h
    exact (execAll_cons_of_next (exec_pull_within e hu)).trans (ih ht)

/-- Over a bound source any number of pulls run, and each answers once. -/
theorem pulls_next (k : Nat) {s : State} {src : Source} (hs : s.cursor.src = some src) :
    ∃ t, execAll (List.replicate k .adpcmPull) s = .next t ∧
      t.host.responses.length = s.host.responses.length + k := by
  induction k generalizing s with
  | zero => exact ⟨s, rfl, rfl⟩
  | succ k ih =>
    obtain ⟨u, hu⟩ : ∃ u, exec .adpcmPull s = .next u := by
      rcases execAdpcmPull_cases s with ⟨-, he⟩ | ⟨-, he⟩ | ⟨-, hn, -⟩ | ⟨_, -, -, he⟩
      · exact ⟨_, he⟩
      · exact ⟨_, he⟩
      · cases hn.symm.trans hs
      · exact ⟨_, he⟩
    obtain ⟨v, r, rfl, -, hv⟩ := execAdpcmPull_respondsOnce hu
    obtain ⟨t, ht, hlen⟩ := ih ((execAdpcmPull_frame hu).1.trans hs)
    refine ⟨t, (execAll_cons_of_next hu).trans ht, ?_⟩
    rw [hlen, State.respond_responses, hv, List.length_append, List.length_singleton]
    omega

/-- Pulls of a terminated session answer EndOfStream each, and nothing else changes
(41_adpcm.md R160). -/
theorem Terminated.pulls (k : Nat) {s : State} (h : Terminated s) :
    ∃ t, execAll (List.replicate k .adpcmPull) s = .next t ∧ t.adpcm = s.adpcm ∧
      t.cursor = s.cursor ∧
      t.host.responses = s.host.responses ++ List.replicate k (.failed .endOfStream) := by
  induction k generalizing s with
  | zero => exact ⟨s, rfl, rfl, rfl, (List.append_nil _).symm⟩
  | succ k ih =>
    obtain ⟨t, ht, hadpcm, hcursor, hresp⟩ := ih (s := s.raise .endOfStream) h
    refine ⟨t, (execAll_cons_of_next h.exec_pull).trans ht, hadpcm, hcursor, ?_⟩
    rw [hresp, State.raise_responses, List.append_assoc, List.replicate_succ, List.singleton_append]

/-! ### Sessions over equal sources (41_adpcm.md R161) -/

/-- What ADPCM.INIT does is decided by the source alone: it ends the session it opened, or starts it
with the same size code and response, in every state and at every rate. -/
theorem exec_adpcmInit_by_source (nch : ChannelCount) (src : Source) :
    (∃ mode why, EndedBy mode why ∧ ∀ rate s, exec (.adpcmInit nch src rate) s =
      .next (((s.openSession nch src rate).setMode mode).raise why)) ∨
    (∃ cc b, ∀ rate s, exec (.adpcmInit nch src rate) s =
      .next ((s.startSession nch src rate cc).answer (.bps b))) := by
  rcases src with _ | ⟨⟨b⟩ | _, rest⟩
  · exact .inl ⟨_, _, .inl ⟨rfl, rfl⟩, fun rate s => exec_adpcmInit_empty nch rate s⟩
  · exact .inr ⟨_, _, fun rate s => exec_adpcmInit_byte nch rate s b rest⟩
  · exact .inl ⟨_, _, .inr ⟨rfl, rfl⟩, fun rate s => exec_adpcmInit_fault nch rate s rest⟩

/-- A session just started, with no surroundings: of the state before it only the parameters are
left (41_adpcm.md R144). -/
def freshSession (p : Params) (nch : ChannelCount) (src : Source) (cc : BitVec 2) : State :=
  { State.reset with params := p }.startSession nch src 0 cc

/-- Every session that starts is a fresh one in the surroundings of its state. -/
theorem startSession_answer_eq_within (s : State) (nch : ChannelCount) (src : Source) (rate : Word)
    (cc : BitVec 2) (p : Payload) :
    (s.startSession nch src rate cc).answer p =
      ((freshSession s.params nch src cc).answer p).within
        ⟨rate, s.host.program, s.host.responses⟩ := rfl

/-- Settles O32: a failed ADPCM.INIT leaves terminated sessions; otherwise both are the fresh session
in other surroundings, and so are their pulls. -/
theorem sessionsOverEqualSourcesAgree : Obligations.SessionsOverEqualSourcesAgree := by
  intro s₁ s₂ nch src rate₁ rate₂ k hp
  rcases exec_adpcmInit_by_source nch src with ⟨mode, why, he, hinit⟩ | ⟨cc, b, hinit⟩
  · have hterm : ∀ (s : State) (rate : Word),
        Terminated (((s.openSession nch src rate).setMode mode).raise why) := fun s rate => by
      rcases he with ⟨rfl, -⟩ | ⟨rfl, -⟩
      · exact .inl rfl
      · exact .inr rfl
    obtain ⟨t₁, h₁, ha₁, hc₁, hr₁⟩ := (hterm s₁ rate₁).pulls k
    obtain ⟨t₂, h₂, ha₂, hc₂, hr₂⟩ := (hterm s₂ rate₂).pulls k
    refine ⟨t₁, t₂, .failed why :: List.replicate k (.failed .endOfStream),
      (execAll_cons_of_next (hinit rate₁ s₁)).trans h₁,
      (execAll_cons_of_next (hinit rate₂ s₂)).trans h₂, by simp, by simp [hr₁], by simp [hr₂],
      ?_, ?_⟩
    · rw [ha₁, ha₂]; rfl
    · rw [hc₁, hc₂]; rfl
  · obtain ⟨t, ht, hlen⟩ := pulls_next k
      (s := (freshSession s₁.params nch src cc).answer (.bps b)) (src := src) rfl
    refine ⟨_, _, t.host.responses, ?_, ?_, hlen.trans (Nat.add_comm 1 k),
      t.within_responses ⟨rate₁, s₁.host.program, s₁.host.responses⟩,
      t.within_responses ⟨rate₂, s₂.host.program, s₂.host.responses⟩, rfl, rfl⟩
    · rw [execAll_cons_of_next (hinit rate₁ s₁), startSession_answer_eq_within]
      exact pulls_within _ k ht
    · rw [execAll_cons_of_next (hinit rate₂ s₂), startSession_answer_eq_within, ← hp]
      exact pulls_within _ k ht

end Sys2Proof.Machine
end

section
/-!
PROOFS of 42_image.md: every image transform as one packing of four-byte pixels (R207, R208,
30_encoding.md R97), the selections of IMG.LOSSLESS that transform nothing, and empty images.
-/

namespace Sys2Proof.Machine

/-! ### Pixels of an output buffer -/

/-- Pixel `i` of the output is the four bytes of `pixel` (30_encoding.md R97). -/
def HoldsPixel (out : Buffer) (i : Nat) (pixel : Buffer) : Prop :=
  ∀ j < 4, out[4 * i + j]? = pixel[j]?

theorem holdsPixel_iff {out : Buffer} {i : Nat} {r g b a : Byte} :
    HoldsPixel out i [r, g, b, a] ↔
      out[4 * i]? = some r ∧ out[4 * i + 1]? = some g ∧ out[4 * i + 2]? = some b ∧
        out[4 * i + 3]? = some a := by
  constructor
  · intro h
    exact ⟨h 0 (by decide), h 1 (by decide), h 2 (by decide), h 3 (by decide)⟩
  · rintro ⟨hr, hg, hb, ha⟩ j hj
    interval_cases j
    exacts [hr, hg, hb, ha]

/-- What holds a byte inside a buffer holds the buffer's own byte (00_scope.md R10). -/
theorem byte_eq_of_bufferByte {o : Option Byte} {d : Buffer} {j : Nat}
    (h : o = some (bufferByte d j)) (hj : j < d.length) : o = d[j]? :=
  h.trans (bufferByte_of_lt hj).symm

/-! ### One packing of pixels -/

/-- The outcome `o` of packing an image in state `s`: SizeMismatch where the input is `short`, the
refusal of an output past MAX_OUTPUT_BYTES, else the output that holds every pixel
(42_image.md R207, R208). -/
structure PacksPixels (o : Host.Outcome State Fault Refusal) (s : State) (width height : Word)
    (short : Prop) (pixel : Nat → Buffer) : Prop where
  sizeMismatch : short → o = .next (s.raise .sizeMismatch)
  tooLarge : ¬ short → s.params.maxOutputBytes < 4 * (width.toNat * height.toNat) →
    o = .refused .outputTooLarge
  packed : ¬ short → 4 * (width.toNat * height.toNat) ≤ s.params.maxOutputBytes →
    ∃ out : Buffer, out.length = 4 * (width.toNat * height.toNat) ∧
      o = .next (s.answer (.image width height out)) ∧
      ∀ i < width.toNat * height.toNat, HoldsPixel out i (pixel i)

/-- An image without pixels is packed to the empty output, whatever MAX_OUTPUT_BYTES is
(42_image.md R209). -/
theorem PacksPixels.of_no_pixels {o : Host.Outcome State Fault Refusal} {s : State}
    {width height : Word} {short : Prop} {pixel : Nat → Buffer}
    (h : PacksPixels o s width height short pixel) (h0 : width.toNat * height.toNat = 0)
    (hs : ¬ short) : o = .next (s.answer (.image width height [])) := by
  obtain ⟨out, hlen, ho, -⟩ := h.packed hs (by simp [h0])
  obtain rfl : out = [] := List.eq_nil_of_length_eq_zero (by rw [hlen, h0])
  exact ho

/-- What `packPixels` answers becomes the outcome of the command, if its length check says whether
the input is short. -/
theorem finishImage_packPixels {s : State} {width height : Word} {enough : Bool}
    {pixel : Nat → Buffer} {short : Prop} (he : enough = true ↔ ¬ short)
    (h4 : ∀ i, (pixel i).length = 4) :
    PacksPixels (s.finishImage width height (packPixels s.params.maxOutputBytes width.toNat
      height.toNat enough pixel)) s width height short pixel := by
  rcases packPixels_cases s.params.maxOutputBytes width.toNat height.toNat enough pixel with
    ⟨hf, e⟩ | ⟨ht, hm, e⟩ | ⟨ht, hm, e⟩ <;> rw [e]
  · have hs : short := by simpa [hf] using he
    exact ⟨fun _ => rfl, fun h => absurd hs h, fun h => absurd hs h⟩
  · have hs : ¬ short := he.mp ht
    rw [Nat.mul_assoc] at hm
    exact ⟨fun h => absurd h hs, fun _ _ => rfl, fun _ _ => by omega⟩
  · have hs : ¬ short := he.mp ht
    rw [Nat.mul_assoc] at hm
    exact ⟨fun h => absurd h hs, fun _ _ => by omega,
      fun _ _ => ⟨_, flatMap_four_length _ _ h4, rfl,
        fun i hi j hj => flatMap_four_getElem _ _ h4 hi hj⟩⟩

/-! ### The answers of the inflater -/

section Inflated
variable {s : State} {z d : Buffer}

/-- A transform of IMG.LOSSLESS runs on what the inflater gave (42_image.md R196). -/
theorem lossless_of_inflated (hd : s.inflate z = some d) (w h : Word)
    (pack : Buffer → Nat → Nat → Packed) :
    lossless w h z pack s = s.finishImage w h (pack d w.toNat h.toNat) := by
  simp only [lossless, hd]

/-- Without an inflated block no transform runs (42_image.md R196). -/
theorem lossless_of_not_inflated (hd : s.inflate z = none) (w h : Word)
    (pack : Buffer → Nat → Nat → Packed) :
    lossless w h z pack s = .next (s.raise .inflateError) := by
  simp only [lossless, hd]

theorem losslessUnsupported_of_inflated (hd : s.inflate z = some d) :
    losslessUnsupported z s = s.raise .unimplemented := by
  simp only [losslessUnsupported, hd]

theorem losslessUnsupported_of_not_inflated (hd : s.inflate z = none) :
    losslessUnsupported z s = s.raise .inflateError := by
  simp only [losslessUnsupported, hd]

/-! ### IMG.ALPHA -/

/-- IMG.ALPHA with both inputs decoded (42_image.md R191). -/
theorem exec_imgAlpha_packs {jpeg : Buffer} {img : JpegImage} (hj : s.jpegDecode jpeg = some img)
    (hd : s.inflate z = some d) :
    PacksPixels (exec (.imgAlpha jpeg z) s) s img.width img.height
      (img.rgb.length < 3 * (img.width.toNat * img.height.toNat) ∨
        d.length < img.width.toNat * img.height.toNat)
      (alphaPixel img.rgb d) := by
  have hexec : exec (.imgAlpha jpeg z) s = s.finishImage img.width img.height
      (packAlpha s.params.maxOutputBytes img.width.toNat img.height.toNat img.rgb d) := by
    simp only [exec, execImgAlpha, hj, hd]
  rw [hexec]
  exact finishImage_packPixels (by simp [Nat.mul_assoc]) fun _ => rfl

/-! ### Rgb32 -/

/-- IMG.LOSSLESS.V1.RGB32 of an inflated block (42_image.md R198). -/
theorem exec_v1Rgb32_packs (hd : s.inflate z = some d) (ncol : Byte) (w h : Word) :
    PacksPixels (exec (.imgLosslessV1Rgb32 ncol w h z) s) s w h
      (d.length < 4 * (w.toNat * h.toNat)) (v1Rgb32Pixel d) := by
  rw [exec, execImgLosslessV1Rgb32, lossless_of_inflated hd]
  exact finishImage_packPixels (by simp [Nat.mul_assoc]) fun _ => rfl

/-- IMG.LOSSLESS.V2.RGB32 of an inflated block (42_image.md R199). -/
theorem exec_v2Rgb32_packs (hd : s.inflate z = some d) (ncol : Byte) (w h : Word) :
    PacksPixels (exec (.imgLosslessV2Rgb32 ncol w h z) s) s w h
      (d.length < 4 * (w.toNat * h.toNat)) (v2Rgb32Pixel d) := by
  rw [exec, execImgLosslessV2Rgb32, lossless_of_inflated hd]
  exact finishImage_packPixels (by simp [Nat.mul_assoc]) fun _ => rfl

/-! ### ColorMap8 -/

/-- The block lacks palette entries or index bytes that are read (42_image.md R202, R207). -/
def Cmap8Short (d : Buffer) (base w h : Nat) : Prop :=
  d.length < base ∨ (0 < w ∧ 0 < h ∧ d.length < base + (h - 1) * rowStride w + w)

/-- Both ColorMap8 transforms pack one pixel per index byte (42_image.md R202, R203). -/
theorem finishImage_packCmap8 {w h : Word} {ncol entryBytes : Nat} {entry : Nat → Buffer}
    {fallback : Buffer} (hentry : ∀ j, (entry j).length = 4) (hfallback : fallback.length = 4) :
    PacksPixels (s.finishImage w h (packCmap8 s.params.maxOutputBytes d w.toNat h.toNat ncol
        entryBytes entry fallback)) s w h
      (Cmap8Short d (entryBytes * (ncol + 1)) w.toNat h.toNat)
      (cmap8Pixel d (entryBytes * (ncol + 1)) ncol w.toNat entry fallback) := by
  simp only [packCmap8]
  split
  · rename_i hp
    exact ⟨fun _ => rfl, fun h => absurd (.inl hp) h, fun h => absurd (.inl hp) h⟩
  · rename_i hp
    refine finishImage_packPixels (by simp [Cmap8Short, hp, imp_iff_not_or, or_assoc]) fun i => ?_
    unfold cmap8Pixel
    split
    · exact hentry _
    · exact hfallback

/-- IMG.LOSSLESS.V1.CMAP8 of an inflated block (42_image.md R202, R204). -/
theorem exec_v1Cmap8_packs (hd : s.inflate z = some d) (ncol : Byte) (w h : Word) :
    PacksPixels (exec (.imgLosslessV1Cmap8 ncol w h z) s) s w h
      (Cmap8Short d (3 * (ncol.toNat + 1)) w.toNat h.toNat)
      (cmap8Pixel d (3 * (ncol.toNat + 1)) ncol.toNat w.toNat (v1PaletteEntry d)
        [0, 0, 0, 255]) := by
  rw [exec, execImgLosslessV1Cmap8, lossless_of_inflated hd]
  exact finishImage_packCmap8 (fun _ => rfl) rfl

/-- IMG.LOSSLESS.V2.CMAP8 of an inflated block (42_image.md R203, R204). -/
theorem exec_v2Cmap8_packs (hd : s.inflate z = some d) (ncol : Byte) (w h : Word) :
    PacksPixels (exec (.imgLosslessV2Cmap8 ncol w h z) s) s w h
      (Cmap8Short d (4 * (ncol.toNat + 1)) w.toNat h.toNat)
      (cmap8Pixel d (4 * (ncol.toNat + 1)) ncol.toNat w.toNat (v2PaletteEntry d)
        [0, 0, 0, 0]) := by
  rw [exec, execImgLosslessV2Cmap8, lossless_of_inflated hd]
  exact finishImage_packCmap8 (fun _ => rfl) rfl

end Inflated

/-- The whole palette is there. -/
theorem palette_le_of_not_short {d : Buffer} {base w h : Nat} (hs : ¬ Cmap8Short d base w h) :
    base ≤ d.length :=
  Nat.le_of_not_lt fun hp => hs (.inl hp)

/-- The index byte of every pixel is there; of the rows, the last one decides (42_image.md R202,
R207). -/
theorem index_lt_of_not_short {d : Buffer} {base w h x y : Nat} (hs : ¬ Cmap8Short d base w h)
    (hx : x < w) (hy : y < h) : base + y * rowStride w + x < d.length := by
  have hrows : y * rowStride w ≤ (h - 1) * rowStride w := Nat.mul_le_mul_right _ (by omega)
  have hlast : ¬ d.length < base + (h - 1) * rowStride w + w :=
    fun hl => hs (.inr ⟨by omega, by omega, hl⟩)
  omega

/-- Pixel (x, y) has the number `y * w + x` (42_image.md R202). -/
theorem pixelNumber_lt {w h x y : Nat} (hx : x < w) (hy : y < h) : y * w + x < w * h :=
  calc y * w + x < (y + 1) * w := by rw [Nat.add_one_mul]; omega
    _ ≤ h * w := Nat.mul_le_mul_right w hy
    _ = w * h := Nat.mul_comm h w

/-- The pixel (x, y) is chosen by the index byte in its row and column (42_image.md R201, R202). -/
theorem pixelIndex_of_row_column (d : Buffer) (base : Nat) {w x : Nat} (hx : x < w) (y : Nat) :
    pixelIndex d base w (y * w + x) = (bufferByte d (base + y * rowStride w + x)).toNat := by
  have hdiv : (y * w + x) / w = y := by
    rw [Nat.mul_comm, Nat.mul_add_div (by omega), Nat.div_eq_of_lt hx, Nat.add_zero]
  have hmod : (y * w + x) % w = x := by
    rw [Nat.mul_comm, Nat.mul_add_mod, Nat.mod_eq_of_lt hx]
  rw [pixelIndex, hdiv, hmod]

/-- A pixel of a ColorMap8 output, by its column and row: its index byte is in the block and picks
the palette entry or the fallback (42_image.md R202 to R204). -/
theorem cmap8_pixel_at {d out fallback : Buffer} {base ncol w h x y : Nat} {entry : Nat → Buffer}
    (hs : ¬ Cmap8Short d base w h)
    (hout : ∀ i < w * h, HoldsPixel out i (cmap8Pixel d base ncol w entry fallback i))
    (hx : x < w) (hy : y < h) :
    ∃ idx : Byte, d[base + y * rowStride w + x]? = some idx ∧
      (idx.toNat ≤ ncol → HoldsPixel out (y * w + x) (entry idx.toNat)) ∧
      (ncol < idx.toNat → HoldsPixel out (y * w + x) fallback) := by
  have hpix := hout _ (pixelNumber_lt hx hy)
  rw [cmap8Pixel, pixelIndex_of_row_column d base hx] at hpix
  refine ⟨_, bufferByte_of_lt (index_lt_of_not_short hs hx hy), fun hle => ?_, fun hlt => ?_⟩
  · rwa [if_pos hle] at hpix
  · rwa [if_neg (by omega)] at hpix

/-! ### The transforms -/

/-- Settles O36: the failures in the order of R191, then the packing of the merged pixels. -/
theorem imgAlphaMergesRgbAndAlpha : Obligations.ImgAlphaMergesRgbAndAlpha := by
  intro jpeg alphaZ s
  refine ⟨fun hj => by simp only [exec, execImgAlpha, hj], fun j hj =>
    ⟨fun hz => by simp only [exec, execImgAlpha, hj, hz], fun a hz => ?_⟩⟩
  have hpack := exec_imgAlpha_packs hj hz
  refine ⟨hpack.sizeMismatch, fun hrgb hlen => hpack.tooLarge (by omega),
    fun hrgb hlen hmax => ?_⟩
  obtain ⟨out, hout, hexec, hpix⟩ := hpack.packed (by omega) hmax
  refine ⟨out, hout, hexec, fun i hi => ?_⟩
  obtain ⟨hr, hg, hb, ha⟩ := holdsPixel_iff.mp (hpix i hi)
  exact ⟨byte_eq_of_bufferByte hr (by omega), byte_eq_of_bufferByte hg (by omega),
    byte_eq_of_bufferByte hb (by omega), byte_eq_of_bufferByte ha (by omega)⟩

/-- Settles O37: the packing of the pixels whose first byte is left out. -/
theorem v1Rgb32DropsTheReservedByte : Obligations.V1Rgb32DropsTheReservedByte := by
  intro ncol w h z d s hd
  have hpack := exec_v1Rgb32_packs hd ncol w h
  refine ⟨hpack.sizeMismatch, fun hlen => hpack.tooLarge (by omega), fun hlen hmax => ?_⟩
  obtain ⟨out, hout, hexec, hpix⟩ := hpack.packed (by omega) hmax
  refine ⟨out, hout, hexec, fun i hi => ?_⟩
  obtain ⟨hr, hg, hb, ha⟩ := holdsPixel_iff.mp (hpix i hi)
  exact ⟨byte_eq_of_bufferByte hr (by omega), byte_eq_of_bufferByte hg (by omega),
    byte_eq_of_bufferByte hb (by omega), ha⟩

/-- Settles O38: the packing of the pixels whose first byte goes last. -/
theorem v2Rgb32RotatesEachGroup : Obligations.V2Rgb32RotatesEachGroup := by
  intro ncol w h z d s hd
  have hpack := exec_v2Rgb32_packs hd ncol w h
  refine ⟨hpack.sizeMismatch, fun hlen => hpack.tooLarge (by omega), fun hlen hmax => ?_⟩
  obtain ⟨out, hout, hexec, hpix⟩ := hpack.packed (by omega) hmax
  refine ⟨out, hout, hexec, fun i hi => ?_⟩
  obtain ⟨hr, hg, hb, ha⟩ := holdsPixel_iff.mp (hpix i hi)
  exact ⟨byte_eq_of_bufferByte hr (by omega), byte_eq_of_bufferByte hg (by omega),
    byte_eq_of_bufferByte hb (by omega), byte_eq_of_bufferByte ha (by omega)⟩

/-- Settles O39: an index up to `NCOL` picks three bytes inside the palette. -/
theorem v1Cmap8ExpandsThePalette : Obligations.V1Cmap8ExpandsThePalette := by
  intro ncol w h z d s hd
  have hpack := exec_v1Cmap8_packs hd ncol w h
  refine ⟨hpack.sizeMismatch, hpack.tooLarge, fun hs hmax => ?_⟩
  obtain ⟨out, hout, hexec, hpix⟩ := hpack.packed hs hmax
  refine ⟨out, hout, hexec, fun x y hx hy => ?_⟩
  obtain ⟨idx, hidx, hin, hpast⟩ := cmap8_pixel_at hs hpix hx hy
  refine ⟨idx, hidx, fun hle => ?_, fun hlt => holdsPixel_iff.mp (hpast hlt)⟩
  have hpal := palette_le_of_not_short hs
  obtain ⟨hr, hg, hb, ha⟩ := holdsPixel_iff.mp (hin hle)
  exact ⟨byte_eq_of_bufferByte hr (by omega), byte_eq_of_bufferByte hg (by omega),
    byte_eq_of_bufferByte hb (by omega), ha⟩

/-- Settles O40: an index up to `NCOL` picks four bytes inside the palette. -/
theorem v2Cmap8ExpandsThePalette : Obligations.V2Cmap8ExpandsThePalette := by
  intro ncol w h z d s hd
  have hpack := exec_v2Cmap8_packs hd ncol w h
  refine ⟨hpack.sizeMismatch, hpack.tooLarge, fun hs hmax => ?_⟩
  obtain ⟨out, hout, hexec, hpix⟩ := hpack.packed hs hmax
  refine ⟨out, hout, hexec, fun x y hx hy => ?_⟩
  obtain ⟨idx, hidx, hin, hpast⟩ := cmap8_pixel_at hs hpix hx hy
  refine ⟨idx, hidx, fun hle => ?_, fun hlt => holdsPixel_iff.mp (hpast hlt)⟩
  have hpal := palette_le_of_not_short hs
  obtain ⟨hr, hg, hb, ha⟩ := holdsPixel_iff.mp (hin hle)
  exact ⟨byte_eq_of_bufferByte hr (by omega), byte_eq_of_bufferByte hg (by omega),
    byte_eq_of_bufferByte hb (by omega), byte_eq_of_bufferByte ha (by omega)⟩

/-! ### Empty images -/

/-- With no pixels only the palette can be short (42_image.md R209). -/
theorem cmap8Short_iff_of_no_pixels {d : Buffer} {base w h : Nat} (h0 : w = 0 ∨ h = 0) :
    Cmap8Short d base w h ↔ d.length < base :=
  or_iff_left (by omega)

/-- An empty ColorMap8 image answers by the size of its palette alone (42_image.md R209). -/
theorem PacksPixels.of_no_cmap8_pixels {o : Host.Outcome State Fault Refusal} {s : State}
    {w h : Word} {d : Buffer} {base : Nat} {pixel : Nat → Buffer}
    (hpack : PacksPixels o s w h (Cmap8Short d base w.toNat h.toNat) pixel)
    (h0 : w.toNat = 0 ∨ h.toNat = 0) :
    o = .next (if d.length < base then s.raise .sizeMismatch else s.answer (.image w h [])) := by
  have hshort := cmap8Short_iff_of_no_pixels (d := d) (base := base) h0
  split
  · rename_i hp
    exact hpack.sizeMismatch (hshort.mpr hp)
  · rename_i hp
    exact hpack.of_no_pixels (Nat.mul_eq_zero.mpr h0) (mt hshort.mp hp)

/-- Settles O46: every transform is a packing of no pixels. -/
theorem zeroDimensionsGiveAnEmptyOutput : Obligations.ZeroDimensionsGiveAnEmptyOutput := by
  intro ncol w h z d s h0 hd
  have hn : w.toNat * h.toNat = 0 := Nat.mul_eq_zero.mpr h0
  exact ⟨(exec_v1Rgb32_packs hd ncol w h).of_no_pixels hn (by simp [hn]),
    (exec_v2Rgb32_packs hd ncol w h).of_no_pixels hn (by simp [hn]),
    (exec_v1Cmap8_packs hd ncol w h).of_no_cmap8_pixels h0,
    (exec_v2Cmap8_packs hd ncol w h).of_no_cmap8_pixels h0⟩

/-- Settles O47: an image command writes one response, which is the update the statement writes
out. -/
theorem imageCommandsKeepCursorAndSession : Obligations.ImageCommandsKeepCursorAndSession :=
  fun _ _ _ => exec_image_next

/-- Settles O41: a multiple `4 * k` is compared with `4 * ((w + 3) / 4)` by its factor. -/
theorem rowStrideIsTheNextMultipleOfFour : Obligations.RowStrideIsTheNextMultipleOfFour := by
  refine ⟨rfl, fun w => ⟨Nat.dvd_mul_right 4 _, ?_, ?_⟩⟩
  · rw [rowStride]; omega
  · rintro _ ⟨k, rfl⟩ hk
    exact Nat.mul_le_mul_left 4 (by omega)

/-! ### Selections without a transform -/

/-- Settles O42: `State.raise` is the update the statement writes out. -/
theorem rgb15IsUnimplementedAfterInflate : Obligations.Rgb15IsUnimplementedAfterInflate :=
  fun _ _ _ _ _ _ _ hd => congrArg Host.Outcome.next (losslessUnsupported_of_inflated hd)

/-- Rgb32 in a version other than 1 and 2 selects the general row (42_image.md R197, R206). -/
theorem selectLossless_otherRgb32 {ver : Byte} (h1 : ver ≠ 1) (h2 : ver ≠ 2) (ncol : Byte)
    (w h : Word) (z : Buffer) :
    selectLossless ncol ver 5 w h z = .imgLosslessOtherRgb32 ncol ver w h z := by
  rw [selectLossless, if_pos rfl, if_neg h1, if_neg h2]

/-- ColorMap8 in a version other than 1 and 2 selects the general row (42_image.md R197, R206). -/
theorem selectLossless_otherCmap8 {ver : Byte} (h1 : ver ≠ 1) (h2 : ver ≠ 2) (ncol : Byte)
    (w h : Word) (z : Buffer) :
    selectLossless ncol ver 3 w h z = .imgLosslessOtherCmap8 ncol ver w h z := by
  rw [selectLossless, if_neg (by decide), if_pos rfl, if_neg h1, if_neg h2]

/-- Settles O43: a version other than 1 and 2 falls through to the general rows. -/
theorem otherPairsAreUnimplementedAfterInflate :
    Obligations.OtherPairsAreUnimplementedAfterInflate := by
  intro ncol ver w h z d s h1 h2 hd
  exact ⟨congrArg Host.Outcome.next (losslessUnsupported_of_inflated hd),
    congrArg Host.Outcome.next (losslessUnsupported_of_inflated hd),
    selectLossless_otherRgb32 h1 h2 _ _ _ _, selectLossless_otherCmap8 h1 h2 _ _ _ _⟩

/-- Settles O44: an unknown format falls through to the last row, which calls no service. -/
theorem unknownFormatIsMalformedHeader : Obligations.UnknownFormatIsMalformedHeader := by
  intro ncol ver fmt w h z s h3 h4 h5
  exact ⟨by rw [selectLossless, if_neg h5, if_neg h3, if_neg h4], rfl⟩

/-- Settles O45: each row of a known format inflates first. -/
theorem inflateFailureComesBeforeAnyTransform :
    Obligations.InflateFailureComesBeforeAnyTransform := by
  intro ncol ver fmt w h z s hfmt hz
  have htransform := lossless_of_not_inflated hz w h
  have hother := losslessUnsupported_of_not_inflated hz
  rcases hfmt with rfl | rfl | rfl
  case inl =>
    by_cases h1 : ver = 1
    · subst h1; exact htransform _
    by_cases h2 : ver = 2
    · subst h2; exact htransform _
    rw [selectLossless_otherCmap8 h1 h2]
    exact congrArg Host.Outcome.next hother
  case inr.inl => exact congrArg Host.Outcome.next hother
  case inr.inr =>
    by_cases h1 : ver = 1
    · subst h1; exact htransform _
    by_cases h2 : ver = 2
    · subst h2; exact htransform _
    rw [selectLossless_otherRgb32 h1 h2]
    exact congrArg Host.Outcome.next hother

end Sys2Proof.Machine
end

section
/-!
PROOFS of 60_exceptions.md: the idle block, what stops a step, and what a failure leaves of the
state.
-/

namespace Sys2Proof.Machine

/-- Settles O6: with nothing issued the step is the idle step. -/
theorem idleBlockKeepsItsState : Obligations.IdleBlockKeepsItsState :=
  fun _ => step_of_idle

/-! ### What stops a step -/

/-- The outcome is a next state, or the refusal of an output larger than MAX_OUTPUT_BYTES
(60_exceptions.md R230, 42_image.md R208). -/
def NextOrTooLarge (o : Host.Outcome State Fault Refusal) : Prop :=
  (∃ t, o = .next t) ∨ o = .refused .outputTooLarge

theorem nextOrTooLarge_next (t : State) : NextOrTooLarge (.next t) := .inl ⟨t, rfl⟩

theorem finishImage_nextOrTooLarge (s : State) (width height : Word) (p : Packed) :
    NextOrTooLarge (s.finishImage width height p) := by
  cases p with
  | out | failed => exact nextOrTooLarge_next _
  | tooLarge => exact .inr rfl

/-- IMG.ALPHA: a service that fails is a response, not a stop (42_image.md R192). -/
theorem execImgAlpha_nextOrTooLarge (jpeg alphaZ : Buffer) (s : State) :
    NextOrTooLarge (execImgAlpha jpeg alphaZ s) := by
  unfold execImgAlpha
  split
  · exact nextOrTooLarge_next _
  · split
    · exact nextOrTooLarge_next _
    · exact finishImage_nextOrTooLarge s _ _ _

/-- The four transforms of IMG.LOSSLESS, by the answer of the inflater (42_image.md R196). -/
theorem lossless_nextOrTooLarge (width height : Word) (dataZ : Buffer)
    (pack : Buffer → Nat → Nat → Packed) (s : State) :
    NextOrTooLarge (lossless width height dataZ pack s) := by
  rcases hd : s.inflate dataZ with _ | d
  · rw [lossless_of_not_inflated hd]
    exact nextOrTooLarge_next _
  · rw [lossless_of_inflated hd]
    exact finishImage_nextOrTooLarge s _ _ _

/-- ADPCM.INIT has a next state whether its read succeeds or fails (41_adpcm.md R144). -/
theorem execAdpcmInit_next (nch : ChannelCount) (src : Source) (rate : Word) (s : State) :
    ∃ t, exec (.adpcmInit nch src rate) s = .next t := by
  rcases execAdpcmInit_cases nch src rate s with ⟨mode, why, -, e⟩ | ⟨cc, b, -, e⟩
  · exact ⟨_, e⟩
  · exact ⟨_, e⟩

/-- ADPCM.PULL stops only where the read primitive lacks its source, which the invariant shuts out
(40_cursor.md R120). -/
theorem execAdpcmPull_next {s : State} (h : LegalState s) : ∃ t, exec .adpcmPull s = .next t := by
  rcases execAdpcmPull_cases s with ⟨-, e⟩ | ⟨-, e⟩ | ⟨hm, hs, -⟩ | ⟨src, -, -, e⟩
  · exact ⟨_, e⟩
  · exact ⟨_, e⟩
  · exact absurd hs (h.bound hm)
  · exact ⟨_, e⟩

/-- No instruction faults in a legal state, and only a transform's output is refused. -/
theorem exec_nextOrTooLarge {s : State} (h : LegalState s) (i : Instr) :
    NextOrTooLarge (exec i s) := by
  cases i with
  | curBind | curRdu | curRds => exact nextOrTooLarge_next _
  | adpcmInit => exact .inl (execAdpcmInit_next _ _ _ s)
  | adpcmPull => exact .inl (execAdpcmPull_next h)
  | imgAlpha => exact execImgAlpha_nextOrTooLarge _ _ s
  | imgLosslessV1Rgb32 | imgLosslessV2Rgb32 | imgLosslessV1Cmap8 | imgLosslessV2Cmap8 =>
    exact lossless_nextOrTooLarge _ _ _ _ s
  | imgLosslessRgb15 | imgLosslessOtherRgb32 | imgLosslessOtherCmap8 | imgLosslessBadfmt =>
    exact nextOrTooLarge_next _
  | sizeCode | header | code2 | code3 | code4 | code5 => exact nextOrTooLarge_next _

/-- Settles O11, by the host's next event: the state in which a command runs is legal too. -/
theorem stepsOfLegalStatesNeverFault : Obligations.StepsOfLegalStatesNeverFault := by
  intro s h
  rcases hp : s.host.program with _ | ⟨⟨w, operands⟩ | _, rest⟩
  · exact .inl ⟨_, step_of_idle hp⟩
  · rcases hd : decode (.command w operands) with e | i
    · exact .inl ⟨_, step_of_rejected hp hd⟩
    · rw [step_of_decoded hp hd]
      exact exec_nextOrTooLarge (h.issued rest) i
  · exact .inl ⟨_, step_of_reset hp⟩

/-! ### What a failure leaves of the state -/

/-- The three ways a command comes to its response: it writes nothing else, it succeeds, or a stream
read of the session fails (60_exceptions.md R244). -/
inductive CommandEnds (s : State) : State → Prop where
  | responds (r : Response) : CommandEnds s (s.respond r)
  | answers {u : State} (hu : u.host = s.host) (payload : Payload) :
    CommandEnds s (u.answer payload)
  | readFails {u : State} {mode : Mode} {why : Failure} (hu : u.host = s.host)
      (he : EndedBy mode why) : CommandEnds s (u.raise why)

/-- A failed cursor read changes nothing, whatever the failure (40_cursor.md R124 to R127). -/
theorem cursorRead_ends (n : BitVec 6) (view : Nat → Word) (s : State) :
    CommandEnds s (cursorRead n view s) := by
  rcases cursorRead_cases n view s with ⟨why, e⟩ | ⟨src, p, v, -, -, e⟩ <;> rw [e]
  · exact .responds (.failed why)
  · exact .answers (State.moveTo_host s p) _

theorem execAdpcmInit_ends {nch : ChannelCount} {src : Source} {rate : Word} {s t : State}
    (h : exec (.adpcmInit nch src rate) s = .next t) : CommandEnds s t := by
  rcases execAdpcmInit_cases nch src rate s with ⟨mode, why, he, e⟩ | ⟨cc, b, -, e⟩ <;>
    rw [e] at h <;> cases h
  · exact .readFails (by simp) he
  · exact .answers (by simp [State.startSession]) _

/-- Outside mode ACTIVE a pull writes its response alone; in it, it emits or a read fails
(41_adpcm.md R157 to R160). -/
theorem execAdpcmPull_ends {s t : State} (h : exec .adpcmPull s = .next t) : CommandEnds s t := by
  rcases execAdpcmPull_cases s with ⟨-, e⟩ | ⟨-, e⟩ | ⟨-, -, e⟩ | ⟨src, -, -, e⟩ <;>
    rw [e] at h <;> cases h
  · exact .responds _
  · exact .responds _
  · rcases pullActive_cases src s with ⟨u, e, hp, -⟩ | ⟨u, mode, why, e, hp, he⟩ <;> rw [e]
    · exact .answers (by simp [hp.host]) _
    · exact .readFails (by simp [hp.host]) he

theorem exec_command_ends {i : Instr} {s t : State} (hi : isCommand i = true)
    (h : exec i s = .next t) : CommandEnds s t := by
  by_cases him : isImageCommand i = true
  · obtain ⟨r, rfl⟩ := exec_image_next him h
    exact .responds r
  · cases i with
    | curBind => cases h; exact .answers (by simp) _
    | curRdu | curRds => cases h; exact cursorRead_ends _ _ s
    | adpcmInit => exact execAdpcmInit_ends h
    | adpcmPull => exact execAdpcmPull_ends h
    | sizeCode | header | code2 | code3 | code4 | code5 => cases hi
    | _ => exact absurd rfl him

/-- Of the three ways, only the first gives a failure that is not of a read. -/
theorem CommandEnds.eq_raise {s t : State} {why : Failure} (h : CommandEnds s t)
    (hr : t.host.responses = s.host.responses ++ [.failed why]) (hend : why ≠ .endOfStream)
    (hfault : why ≠ .sourceFault) : t = s.raise why := by
  cases h with
  | responds r =>
    obtain rfl : r = .failed why := by simpa using hr
    rfl
  | answers hu => exact absurd hr (by simp [hu])
  | readFails hu he =>
    obtain rfl : _ = why := by simpa [hu] using hr
    rcases he with ⟨-, e⟩ | ⟨-, e⟩
    · exact absurd e hend
    · exact absurd e hfault

/-- Settles O15: a stream element gives no response, and a command ends in one of three ways. -/
theorem failuresOtherThanReadFailuresChangeNothing :
    Obligations.FailuresOtherThanReadFailuresChangeNothing := by
  intro i s t why h hr hend hfault
  cases hi : isCommand i
  case true => exact (exec_command_ends hi h).eq_raise hr hend hfault
  case false =>
    obtain ⟨-, hhost, -⟩ := exec_element_frame hi h
    exact absurd hr (by simp [hhost])

end Sys2Proof.Machine
end

section
/-!
PROOFS of 70_reset_and_hazards.md: the state after a reset event.
-/

namespace Sys2Proof.Machine

/-- What a reset event keeps are the parameters and the responses (70_reset_and_hazards.md R261,
R262). -/
theorem State.issued_resetBlock (s : State) (rest : List HostEvent) :
    (s.issued rest).resetBlock =
      { cursor := .reset, adpcm := .reset, params := s.params,
        host := { program := rest, responses := s.host.responses } } := rfl

/-- Settles O7: the step runs the reset event, and the values left by it are those written out in
`Cursor.reset` and `Adpcm.reset`. -/
theorem resetEventRestoresTheResetState : Obligations.ResetEventRestoresTheResetState := by
  intro s rest h
  calc
    step s = .next (s.issued rest).resetBlock := step_of_reset h
    _ = .next { cursor := .reset, adpcm := .reset, params := s.params,
                host := { program := rest, responses := s.host.responses } } :=
      congrArg Host.Outcome.next (s.issued_resetBlock rest)

end Sys2Proof.Machine
end
